-- ==== Sys2Proof/Word.lean ====
section
/-! DEFINITION. The two widths of the hardware (spec/00_scope.md R6, R7): a byte is 8 bits, a word 16 bits.
Both are unsigned and wrap; BitVec's own `+`, `-`, `&&&`, `|||`, `^^^` are the arithmetic of R7. -/

namespace Sys2Proof

/-- An 8-bit value, 0 to 255 (R7). -/
abbrev Byte := BitVec 8

/-- A 16-bit value, 0 to 65535 (R7): a pair, an address, an immediate word. -/
abbrev Word := BitVec 16

end Sys2Proof
end

