-- ==== Sys2Proof/Machine/Bits.lean ====
section
/-! DEFINITION. Byte order, halves and extensions of bit vectors (spec/00_scope.md R6, R7; spec/10_state.md R21, R22).
A word's high half is bits 15:8 and its low half bits 7:0. -/

namespace Sys2Proof

/-- `w[15:8]` (R6, R21). -/
def hiByte (w : Word) : Byte := w.extractLsb' 8 8

/-- `w[7:0]` (R6, R21). -/
def loByte (w : Word) : Byte := w.extractLsb' 0 8

/-- `h ++ l`, the word `(h << 8) | l` (R7). -/
def wordOf (h l : Byte) : Word := h ++ l

/-- `sext_16(b)`: b when b < 128, else b + 65280 (R7). -/
def sext16 (b : Byte) : Word := b.signExtend 16

/-- `zext_16(b)` (R7). -/
def zext16 (b : Byte) : Word := b.setWidth 16

/-- `0` or `1` as a byte: how R133 to R136 move one bit into a result. -/
def bitByte (c : Bool) : Byte := (BitVec.ofBool c).setWidth 8

end Sys2Proof
end

