-- ==== Sys2Proof/Syntax.lean ====
section
/-! DEFINITION. The instruction set: the operand names of spec/30_encoding.md R84 to R87 and spec/46_control.md R351,
and one constructor of `Instr` per descriptor of the baseline catalog (spec/opcode_table.json, 160 rows). A
constructor's docstring gives the row's mnemonic and the rule that states its meaning. -/

namespace Sys2Proof

/-- The registers an 8-bit selector `r8[k]` names (R84). The value 6, the memory-indirect placeholder, names no register. -/
inductive R8 where
  | b | c | d | e | h | l | a
  deriving DecidableEq, Repr

/-- The pairs `rp[k]` (R85): operands dd and ss. -/
inductive Rp where
  | bc | de | hl | sp
  deriving DecidableEq, Repr

/-- The pairs `rp2[k]` (R86): operand qq of PUSH and POP. -/
inductive Rp2 where
  | bc | de | hl | af
  deriving DecidableEq, Repr

/-- The pairs `rpx[k]` (R87): operand pp of ADD IX,pp. -/
inductive Rpx where
  | bc | de | ix | sp
  deriving DecidableEq, Repr

/-- The pairs `rpy[k]` (R87): operand rr of ADD IY,rr. -/
inductive Rpy where
  | bc | de | iy | sp
  deriving DecidableEq, Repr

/-- The conditions of R351, in selector order 0 to 7. -/
inductive Cond where
  | nz | z | nc | c | po | pe | p | m
  deriving DecidableEq, Repr

/-- The instructions: one constructor per row of spec/opcode_table.json, in the table's order. `d` is an index
displacement and `e` a relative one, both raw bytes read as signed (R90, R91); `n` an immediate byte (R88); `nn` an
immediate word (R89); `p` a restart address (R367). -/
inductive Instr where
  -- 8-bit loads (R150 to R174)
  /-- `LD r,r'` (R154). -/
  | ldRR (dst : R8) (src : R8)
  /-- `LD r,n` (R155). -/
  | ldRN (r : R8) (n : Byte)
  /-- `LD r,(HL)` (R156). -/
  | ldRHl (r : R8)
  /-- `LD (HL),r` (R157). -/
  | ldHlR (r : R8)
  /-- `LD (HL),n` (R158). -/
  | ldHlN (n : Byte)
  /-- `LD r,(IX+d)` (R159). -/
  | ldRIx (r : R8) (d : Byte)
  /-- `LD r,(IY+d)` (R160). -/
  | ldRIy (r : R8) (d : Byte)
  /-- `LD (IX+d),r` (R161). -/
  | ldIxR (d : Byte) (r : R8)
  /-- `LD (IY+d),r` (R162). -/
  | ldIyR (d : Byte) (r : R8)
  /-- `LD (IX+d),n` (R163). -/
  | ldIxN (d : Byte) (n : Byte)
  /-- `LD (IY+d),n` (R164). -/
  | ldIyN (d : Byte) (n : Byte)
  /-- `LD A,(BC)` (R165). -/
  | ldABc
  /-- `LD A,(DE)` (R166). -/
  | ldADe
  /-- `LD A,(nn)` (R167). -/
  | ldANn (nn : Word)
  /-- `LD (BC),A` (R168). -/
  | ldBcA
  /-- `LD (DE),A` (R169). -/
  | ldDeA
  /-- `LD (nn),A` (R170). -/
  | ldNnA (nn : Word)
  /-- `LD A,I` (R171). -/
  | ldAI
  /-- `LD A,R` (R172). -/
  | ldAR
  /-- `LD I,A` (R173). -/
  | ldIA
  /-- `LD R,A` (R174). -/
  | ldRA
  -- 16-bit loads, stack and exchange (R180 to R209)
  /-- `LD dd,nn` (R184). -/
  | ldDdNn (dd : Rp) (nn : Word)
  /-- `LD IX,nn` (R185). -/
  | ldIxNn (nn : Word)
  /-- `LD IY,nn` (R186). -/
  | ldIyNn (nn : Word)
  /-- `LD HL,(nn)` (R187). -/
  | ldHlMem (nn : Word)
  /-- `LD dd,(nn)` (R188). -/
  | ldDdMem (dd : Rp) (nn : Word)
  /-- `LD IX,(nn)` (R189). -/
  | ldIxMem (nn : Word)
  /-- `LD IY,(nn)` (R190). -/
  | ldIyMem (nn : Word)
  /-- `LD (nn),HL` (R191). -/
  | ldMemHl (nn : Word)
  /-- `LD (nn),dd` (R192). -/
  | ldMemDd (nn : Word) (dd : Rp)
  /-- `LD (nn),IX` (R193). -/
  | ldMemIx (nn : Word)
  /-- `LD (nn),IY` (R194). -/
  | ldMemIy (nn : Word)
  /-- `LD SP,HL` (R195). -/
  | ldSpHl
  /-- `LD SP,IX` (R196). -/
  | ldSpIx
  /-- `LD SP,IY` (R197). -/
  | ldSpIy
  /-- `PUSH qq` (R198). -/
  | pushQq (qq : Rp2)
  /-- `PUSH IX` (R199). -/
  | pushIx
  /-- `PUSH IY` (R200). -/
  | pushIy
  /-- `POP qq` (R201). -/
  | popQq (qq : Rp2)
  /-- `POP IX` (R202). -/
  | popIx
  /-- `POP IY` (R203). -/
  | popIy
  /-- `EX DE,HL` (R204). -/
  | exDeHl
  /-- `EX AF,AF'` (R205). -/
  | exAfAf
  /-- `EXX` (R206). -/
  | exx
  /-- `EX (SP),HL` (R207). -/
  | exSpHl
  /-- `EX (SP),IX` (R208). -/
  | exSpIx
  /-- `EX (SP),IY` (R209). -/
  | exSpIy
  -- 8-bit arithmetic and logic (R220 to R275)
  /-- `ADD A,r` (R224). -/
  | addAR (r : R8)
  /-- `ADD A,n` (R225). -/
  | addAN (n : Byte)
  /-- `ADD A,(HL)` (R226). -/
  | addAHl
  /-- `ADD A,(IX+d)` (R227). -/
  | addAIx (d : Byte)
  /-- `ADD A,(IY+d)` (R228). -/
  | addAIy (d : Byte)
  /-- `ADC A,r` (R229). -/
  | adcAR (r : R8)
  /-- `ADC A,n` (R230). -/
  | adcAN (n : Byte)
  /-- `ADC A,(HL)` (R231). -/
  | adcAHl
  /-- `ADC A,(IX+d)` (R232). -/
  | adcAIx (d : Byte)
  /-- `ADC A,(IY+d)` (R233). -/
  | adcAIy (d : Byte)
  /-- `SUB r` (R234). -/
  | subR (r : R8)
  /-- `SUB n` (R235). -/
  | subN (n : Byte)
  /-- `SUB (HL)` (R236). -/
  | subHl
  /-- `SUB (IX+d)` (R237). -/
  | subIx (d : Byte)
  /-- `SUB (IY+d)` (R238). -/
  | subIy (d : Byte)
  /-- `SBC A,r` (R239). -/
  | sbcAR (r : R8)
  /-- `SBC A,n` (R240). -/
  | sbcAN (n : Byte)
  /-- `SBC A,(HL)` (R241). -/
  | sbcAHl
  /-- `SBC A,(IX+d)` (R242). -/
  | sbcAIx (d : Byte)
  /-- `SBC A,(IY+d)` (R243). -/
  | sbcAIy (d : Byte)
  /-- `AND r` (R244). -/
  | andR (r : R8)
  /-- `AND n` (R245). -/
  | andN (n : Byte)
  /-- `AND (HL)` (R246). -/
  | andHl
  /-- `AND (IX+d)` (R247). -/
  | andIx (d : Byte)
  /-- `AND (IY+d)` (R248). -/
  | andIy (d : Byte)
  /-- `XOR r` (R249). -/
  | xorR (r : R8)
  /-- `XOR n` (R250). -/
  | xorN (n : Byte)
  /-- `XOR (HL)` (R251). -/
  | xorHl
  /-- `XOR (IX+d)` (R252). -/
  | xorIx (d : Byte)
  /-- `XOR (IY+d)` (R253). -/
  | xorIy (d : Byte)
  /-- `OR r` (R254). -/
  | orR (r : R8)
  /-- `OR n` (R255). -/
  | orN (n : Byte)
  /-- `OR (HL)` (R256). -/
  | orHl
  /-- `OR (IX+d)` (R257). -/
  | orIx (d : Byte)
  /-- `OR (IY+d)` (R258). -/
  | orIy (d : Byte)
  /-- `CP r` (R259). -/
  | cpR (r : R8)
  /-- `CP n` (R260). -/
  | cpN (n : Byte)
  /-- `CP (HL)` (R261). -/
  | cpHl
  /-- `CP (IX+d)` (R262). -/
  | cpIx (d : Byte)
  /-- `CP (IY+d)` (R263). -/
  | cpIy (d : Byte)
  /-- `INC r` (R264). -/
  | incR (r : R8)
  /-- `INC (HL)` (R265). -/
  | incMemHl
  /-- `INC (IX+d)` (R266). -/
  | incMemIx (d : Byte)
  /-- `INC (IY+d)` (R267). -/
  | incMemIy (d : Byte)
  /-- `DEC r` (R268). -/
  | decR (r : R8)
  /-- `DEC (HL)` (R269). -/
  | decMemHl
  /-- `DEC (IX+d)` (R270). -/
  | decMemIx (d : Byte)
  /-- `DEC (IY+d)` (R271). -/
  | decMemIy (d : Byte)
  /-- `CPL` (R272). -/
  | cpl
  /-- `NEG` (R273). -/
  | neg
  /-- `CCF` (R274). -/
  | ccf
  /-- `SCF` (R275). -/
  | scf
  -- 16-bit arithmetic (R290 to R301)
  /-- `ADD HL,ss` (R291). -/
  | addHlSs (ss : Rp)
  /-- `ADC HL,ss` (R292). -/
  | adcHlSs (ss : Rp)
  /-- `SBC HL,ss` (R293). -/
  | sbcHlSs (ss : Rp)
  /-- `ADD IX,pp` (R294). -/
  | addIxPp (pp : Rpx)
  /-- `ADD IY,rr` (R295). -/
  | addIyRr (rr : Rpy)
  /-- `INC ss` (R296). -/
  | incSs (ss : Rp)
  /-- `DEC ss` (R297). -/
  | decSs (ss : Rp)
  /-- `INC IX` (R298). -/
  | incIx
  /-- `DEC IX` (R299). -/
  | decIx
  /-- `INC IY` (R300). -/
  | incIy
  /-- `DEC IY` (R301). -/
  | decIy
  -- rotates and shifts (R310 to R343)
  /-- `RLCA` (R312). -/
  | rlca
  /-- `RRCA` (R313). -/
  | rrca
  /-- `RLA` (R314). -/
  | rla
  /-- `RRA` (R315). -/
  | rra
  /-- `RLC r` (R316). -/
  | rlcR (r : R8)
  /-- `RLC (HL)` (R317). -/
  | rlcHl
  /-- `RLC (IX+d)` (R318). -/
  | rlcIx (d : Byte)
  /-- `RLC (IY+d)` (R319). -/
  | rlcIy (d : Byte)
  /-- `RRC r` (R320). -/
  | rrcR (r : R8)
  /-- `RRC (HL)` (R321). -/
  | rrcHl
  /-- `RRC (IX+d)` (R322). -/
  | rrcIx (d : Byte)
  /-- `RRC (IY+d)` (R323). -/
  | rrcIy (d : Byte)
  /-- `RL r` (R324). -/
  | rlR (r : R8)
  /-- `RL (HL)` (R325). -/
  | rlHl
  /-- `RL (IX+d)` (R326). -/
  | rlIx (d : Byte)
  /-- `RL (IY+d)` (R327). -/
  | rlIy (d : Byte)
  /-- `RR r` (R328). -/
  | rrR (r : R8)
  /-- `RR (HL)` (R329). -/
  | rrHl
  /-- `RR (IX+d)` (R330). -/
  | rrIx (d : Byte)
  /-- `RR (IY+d)` (R331). -/
  | rrIy (d : Byte)
  /-- `SLA r` (R332). -/
  | slaR (r : R8)
  /-- `SLA (HL)` (R333). -/
  | slaHl
  /-- `SLA (IX+d)` (R334). -/
  | slaIx (d : Byte)
  /-- `SLA (IY+d)` (R335). -/
  | slaIy (d : Byte)
  /-- `SRA r` (R336). -/
  | sraR (r : R8)
  /-- `SRA (HL)` (R337). -/
  | sraHl
  /-- `SRA (IX+d)` (R338). -/
  | sraIx (d : Byte)
  /-- `SRA (IY+d)` (R339). -/
  | sraIy (d : Byte)
  /-- `SRL r` (R340). -/
  | srlR (r : R8)
  /-- `SRL (HL)` (R341). -/
  | srlHl
  /-- `SRL (IX+d)` (R342). -/
  | srlIx (d : Byte)
  /-- `SRL (IY+d)` (R343). -/
  | srlIy (d : Byte)
  -- control transfer, NOP, interrupt enable (R350 to R370)
  /-- `JP nn` (R353). -/
  | jpNn (nn : Word)
  /-- `JP cc,nn` (R354). -/
  | jpCc (cc : Cond) (nn : Word)
  /-- `JR e` (R355). -/
  | jr (e : Byte)
  /-- `JR cc,e` (R356). -/
  | jrCc (cc : Cond) (e : Byte)
  /-- `JP (HL)` (R357). -/
  | jpHl
  /-- `JP (IX)` (R358). -/
  | jpIx
  /-- `JP (IY)` (R359). -/
  | jpIy
  /-- `DJNZ e` (R360). -/
  | djnz (e : Byte)
  /-- `CALL nn` (R361). -/
  | callNn (nn : Word)
  /-- `CALL cc,nn` (R362). -/
  | callCc (cc : Cond) (nn : Word)
  /-- `RET` (R363). -/
  | ret
  /-- `RET cc` (R364). -/
  | retCc (cc : Cond)
  /-- `RETI` (R365). -/
  | reti
  /-- `RETN` (R366). -/
  | retn
  /-- `RST p` (R367). -/
  | rst (p : Byte)
  /-- `NOP` (R368). -/
  | nop
  /-- `DI` (R369). -/
  | di
  /-- `EI` (R370). -/
  | ei
  deriving DecidableEq, Repr

end Sys2Proof
end

