-- ==== Sys2Proof/WellFormed.lean ====
section
/-! DEFINITION. Which instructions have an encoding. The operand types of Sys2Proof/Syntax.lean already exclude every
selector a predicate of spec/30_encoding.md R75 refuses, so two checks are left. -/

namespace Sys2Proof

/-- JR cc carries a 2-bit selector and reaches only NZ, Z, NC, C (spec/46_control.md R351, R356). -/
def Cond.short : Cond → Bool
  | .nz | .z | .nc | .c => true
  | .po | .pe | .p | .m => false

/-- An instruction is well formed when its operands fit their fields: JR cc's condition is one of the first four
(R356), and RST's address is one of 0x00, 0x08, …, 0x38 (R367). -/
def Instr.wf : Instr → Bool
  | .jrCc cc _ => cc.short
  | .rst p => p &&& 0xC7 == 0
  | _ => true

end Sys2Proof
end

