-- ==== Sys2Proof/Decode.lean ====
section
/-! DEFINITION. The opcode matcher, the descriptor, the catalog and its selection (spec/30_encoding.md R70 to R83),
the baseline catalog (spec/opcode_table.json), the decoder those give, and the encoder written from the table's bit
patterns. The catalog is an argument of every function of the mechanism (R78); `baseline` is its default. -/

namespace Sys2Proof

/-! ## Byte-match rules -/

/-- A predicate over an 8-bit value (R70), any one. A byte-match rule applies it to the in-place variable bits (R71). -/
abbrev BytePred := Byte → Bool

/-- `lo3_ne_6` (R75): the field at bits 2:0 is not 6. -/
def BytePred.lo3Ne6 : BytePred := fun v => v &&& 0x07 != 0x06

/-- `hi3_ne_6` (R75): the field at bits 5:3 is not 6. -/
def BytePred.hi3Ne6 : BytePred := fun v => v &&& 0x38 != 0x30

/-- `both_ne_6` (R75): neither field is 6. -/
def BytePred.bothNe6 : BytePred := fun v => BytePred.lo3Ne6 v && BytePred.hi3Ne6 v

/-- A byte-match rule `(const, varmask, pred)` (R70): a 1 in `varmask` is a bit that may vary. -/
structure ByteRule where
  const   : Byte
  varmask : Byte
  pred    : Option BytePred

/-- `match(b, rule)` (R71): the fixed bits equal the constant, and the predicate, if any, accepts the variable bits
in place. -/
def ByteRule.matchesByte (r : ByteRule) (b : Byte) : Bool :=
  (b &&& ~~~r.varmask == r.const) &&
    match r.pred with
    | none => true
    | some p => p (b &&& r.varmask)

/-- The variable bits of a byte, in place (R73). -/
def ByteRule.extract (r : ByteRule) (b : Byte) : Byte := b &&& r.varmask

/-- A rule is well formed when no fixed bit stands inside the variable mask (R72). -/
def ByteRule.wf (r : ByteRule) : Bool := r.const &&& r.varmask == 0

/-- The range pair `(lowest, highest)` of R74. -/
def ByteRule.range (r : ByteRule) : Byte × Byte := (r.const, r.const ||| r.varmask)

/-! ## Descriptors and catalogs -/

/-- A descriptor (R76): a mnemonic that nothing reads, one byte-match rule per instruction byte, a cost table, an
optional alternate cost table, and the execution routine, which sees the extracted list x and nothing else of the bytes
(R73). `α` is what a routine is given as: any effect on the registers and memory, with its signal, for the dispatcher
(`Machine.Routine`); the instruction it runs, for the decoder. The routine is `none` on a list x it is not written for
(R403): a selector no table defines, which a baseline predicate never lets through (R84). -/
structure Descriptor (α : Type) where
  mnemonic : String
  rules    : List ByteRule
  cost     : List Nat
  costAlt  : Option (List Nat)
  routine  : List Byte → Option α

/-- An ordered list of descriptors (R78). -/
abbrev Catalog (α : Type) := List (Descriptor α)

/-- The same descriptor with its routine given in another form. -/
def Descriptor.map (f : α → β) (d : Descriptor α) : Descriptor β :=
  { mnemonic := d.mnemonic, rules := d.rules, cost := d.cost, costAlt := d.costAlt,
    routine := fun x => (d.routine x).map f }

/-- How many leading rules match the bytes, in order, stopping at the first that fails (R80, R81). -/
def leadingMatches : List ByteRule → List Byte → Nat
  | r :: rs, b :: bs => if r.matchesByte b then leadingMatches rs bs + 1 else 0
  | _, _ => 0

/-- A descriptor matches when every rule matches its byte (R80). -/
def rulesMatch : List ByteRule → List Byte → Bool
  | [], _ => true
  | r :: rs, b :: bs => r.matchesByte b && rulesMatch rs bs
  | _ :: _, [] => false

/-- The extracted list x: one entry per rule, in rule order, fixed rules included (R73). -/
def extractAll : List ByteRule → List Byte → List Byte
  | r :: rs, b :: bs => r.extract b :: extractAll rs bs
  | _, _ => []

/-- The length of the instruction: one rule consumes one byte (R76). -/
def Descriptor.length (d : Descriptor α) : Nat := d.rules.length

/-- The descriptor matches at the start of the bytes (R80). -/
def Descriptor.matches (d : Descriptor α) (bytes : List Byte) : Bool := rulesMatch d.rules bytes

/-- The first descriptor in catalog order that matches in full (R80). -/
def selectDescriptor : Catalog α → List Byte → Option (Descriptor α)
  | [], _ => none
  | d :: ds, bytes => if d.matches bytes then some d else selectDescriptor ds bytes

/-- How many bytes one descriptor's test asks for: up to and including the first rule that fails (R81). -/
def Descriptor.bytesTested (d : Descriptor α) (bytes : List Byte) : Nat :=
  min (leadingMatches d.rules bytes + 1) d.length

/-- How many bytes the dispatcher fetches: descriptors are tested in catalog order until one matches, and a byte is
fetched the first time a test needs it (R81). -/
def fetchCount : Catalog α → List Byte → Nat
  | [], _ => 0
  | d :: ds, bytes => max (d.bytesTested bytes) (if d.matches bytes then 0 else fetchCount ds bytes)

/-- The most bytes any descriptor of the catalog can need. -/
def Catalog.maxLength : Catalog α → Nat
  | [] => 0
  | d :: ds => max d.length (Catalog.maxLength ds)

/-- The reported cycle count (R83): the alternate sum when the descriptor has an alternate table and the routine
signals, else the default sum. -/
def Descriptor.cycles (d : Descriptor α) (alt : Bool) : Nat :=
  match d.costAlt with
  | none => d.cost.sum
  | some t => if alt then t.sum else d.cost.sum

/-- A descriptor is well formed (R77): at least one rule, every rule well formed, each cost table as long as the rule
list and summing to at least 1. -/
def Descriptor.wf (d : Descriptor α) : Bool :=
  !d.rules.isEmpty && d.rules.all (·.wf) && d.cost.length == d.length && decide (1 ≤ d.cost.sum) &&
    match d.costAlt with
    | none => true
    | some t => t.length == d.length && decide (1 ≤ t.sum)

/-- The construction-time defect of spec/60_exceptions.md R382. No step raises it. Its cause code is 2 (R380). -/
inductive CatalogError where
  /-- The descriptor with this mnemonic fails a check of R77. -/
  | malformedDescriptor (mnemonic : String)
  deriving DecidableEq, Repr

/-- Catalog build (R391): an ordered descriptor list gives a catalog, or MalformedDescriptor for its first malformed
descriptor (R77, R382). -/
def buildCatalog : List (Descriptor α) → Except CatalogError (Catalog α)
  | [] => .ok []
  | d :: ds =>
    if d.wf then
      match buildCatalog ds with
      | .ok c => .ok (d :: c)
      | .error e => .error e
    else .error (.malformedDescriptor d.mnemonic)

/-! ## Operand fields -/

/-- `r8[k]` (R84). -/
def R8.ofSel : BitVec 3 → Option R8
  | 0#3 => some .b
  | 1#3 => some .c
  | 2#3 => some .d
  | 3#3 => some .e
  | 4#3 => some .h
  | 5#3 => some .l
  | 6#3 => none
  | _ => some .a

/-- The selector of an 8-bit register (R84). -/
def R8.sel : R8 → BitVec 3
  | .b => 0 | .c => 1 | .d => 2 | .e => 3 | .h => 4 | .l => 5 | .a => 7

/-- `rp[k]` (R85). -/
def Rp.ofSel : BitVec 2 → Rp
  | 0#2 => .bc
  | 1#2 => .de
  | 2#2 => .hl
  | _ => .sp

/-- The selector of a pair of `rp` (R85). -/
def Rp.sel : Rp → BitVec 2
  | .bc => 0 | .de => 1 | .hl => 2 | .sp => 3

/-- `rp2[k]` (R86). -/
def Rp2.ofSel : BitVec 2 → Rp2
  | 0#2 => .bc
  | 1#2 => .de
  | 2#2 => .hl
  | _ => .af

/-- The selector of a pair of `rp2` (R86). -/
def Rp2.sel : Rp2 → BitVec 2
  | .bc => 0 | .de => 1 | .hl => 2 | .af => 3

/-- `rpx[k]` (R87). -/
def Rpx.ofSel : BitVec 2 → Rpx
  | 0#2 => .bc
  | 1#2 => .de
  | 2#2 => .ix
  | _ => .sp

/-- The selector of a pair of `rpx` (R87). -/
def Rpx.sel : Rpx → BitVec 2
  | .bc => 0 | .de => 1 | .ix => 2 | .sp => 3

/-- `rpy[k]` (R87). -/
def Rpy.ofSel : BitVec 2 → Rpy
  | 0#2 => .bc
  | 1#2 => .de
  | 2#2 => .iy
  | _ => .sp

/-- The selector of a pair of `rpy` (R87). -/
def Rpy.sel : Rpy → BitVec 2
  | .bc => 0 | .de => 1 | .iy => 2 | .sp => 3

/-- The condition a 3-bit selector names (spec/46_control.md R351). -/
def Cond.ofSel : BitVec 3 → Cond
  | 0#3 => .nz
  | 1#3 => .z
  | 2#3 => .nc
  | 3#3 => .c
  | 4#3 => .po
  | 5#3 => .pe
  | 6#3 => .p
  | _ => .m

/-- The selector of a condition (R351). -/
def Cond.sel : Cond → BitVec 3
  | .nz => 0 | .z => 1 | .nc => 2 | .c => 3 | .po => 4 | .pe => 5 | .p => 6 | .m => 7

/-- The condition JR cc's 2-bit selector names: k = 0 to 3 (R351, R356). -/
def Cond.ofSel2 : BitVec 2 → Cond
  | 0#2 => .nz
  | 1#2 => .z
  | 2#2 => .nc
  | _ => .c

/-- The 2-bit selector of JR cc: the low two bits of the condition's selector (R351, R356). -/
def Cond.sel2 (cc : Cond) : BitVec 2 := cc.sel.extractLsb' 0 2

/-- `x[i]`, the i-th entry of the extracted list (R8, R73). -/
def xByte (x : List Byte) (i : Nat) : Byte := x.getD i 0

/-- `x[i][lo+2:lo]`, a 3-bit field (R6, R84). -/
def xField3 (x : List Byte) (i lo : Nat) : BitVec 3 := (xByte x i).extractLsb' lo 3

/-- `x[i][lo+1:lo]`, a 2-bit field (R6, R85). -/
def xField2 (x : List Byte) (i lo : Nat) : BitVec 2 := (xByte x i).extractLsb' lo 2

/-- The immediate word `x[i] | (x[i+1] << 8)`: the byte at the lower address is the low half (R89). -/
def xWord (x : List Byte) (i : Nat) : Word := wordOf (xByte x (i + 1)) (xByte x i)

/-! ## The baseline catalog -/

/-- A fixed rule: exactly one byte matches (R70). -/
def fixed (c : Byte) : ByteRule := { const := c, varmask := 0x00, pred := none }

/-- A rule with a field (R70). -/
def field (c m : Byte) (p : Option BytePred) : ByteRule := { const := c, varmask := m, pred := p }

/-- An immediate or displacement rule: every byte matches (R70). -/
def anyByte : ByteRule := { const := 0x00, varmask := 0xFF, pred := none }

/-- A row of spec/opcode_table.json (R99). -/
def row (mnemonic : String) (rules : List ByteRule) (cost : List Nat) (costAlt : Option (List Nat))
    (routine : List Byte → Option α) : Descriptor α :=
  { mnemonic := mnemonic, rules := rules, cost := cost, costAlt := costAlt, routine := routine }

/-- The baseline descriptors of 8-bit loads (R150 to R174). -/
def catalogLoad8 : Catalog Instr :=
  [
   row "LD r,r'" [field 0x40 0x3F (some .bothNe6)] [4] none
    (fun x => (R8.ofSel (xField3 x 0 3)).bind fun dst => (R8.ofSel (xField3 x 0 0)).map fun src => .ldRR dst src),
   row "LD r,n" [field 0x06 0x38 (some .hi3Ne6), anyByte] [4, 3] none
    (fun x => (R8.ofSel (xField3 x 0 3)).map fun r => .ldRN r (xByte x 1)),
   row "LD r,(HL)" [field 0x46 0x38 (some .hi3Ne6)] [7] none
    (fun x => (R8.ofSel (xField3 x 0 3)).map fun r => .ldRHl r),
   row "LD (HL),r" [field 0x70 0x07 (some .lo3Ne6)] [7] none
    (fun x => (R8.ofSel (xField3 x 0 0)).map fun r => .ldHlR r),
   row "LD (HL),n" [fixed 0x36, anyByte] [4, 6] none
    (fun x => some (.ldHlN (xByte x 1))),
   row "LD r,(IX+d)" [fixed 0xDD, field 0x46 0x38 (some .hi3Ne6), anyByte] [4, 4, 11] none
    (fun x => (R8.ofSel (xField3 x 1 3)).map fun r => .ldRIx r (xByte x 2)),
   row "LD r,(IY+d)" [fixed 0xFD, field 0x46 0x38 (some .hi3Ne6), anyByte] [4, 4, 11] none
    (fun x => (R8.ofSel (xField3 x 1 3)).map fun r => .ldRIy r (xByte x 2)),
   row "LD (IX+d),r" [fixed 0xDD, field 0x70 0x07 (some .lo3Ne6), anyByte] [4, 4, 11] none
    (fun x => (R8.ofSel (xField3 x 1 0)).map fun r => .ldIxR (xByte x 2) r),
   row "LD (IY+d),r" [fixed 0xFD, field 0x70 0x07 (some .lo3Ne6), anyByte] [4, 4, 11] none
    (fun x => (R8.ofSel (xField3 x 1 0)).map fun r => .ldIyR (xByte x 2) r),
   row "LD (IX+d),n" [fixed 0xDD, fixed 0x36, anyByte, anyByte] [4, 4, 3, 8] none
    (fun x => some (.ldIxN (xByte x 2) (xByte x 3))),
   row "LD (IY+d),n" [fixed 0xFD, fixed 0x36, anyByte, anyByte] [4, 4, 3, 8] none
    (fun x => some (.ldIyN (xByte x 2) (xByte x 3))),
   row "LD A,(BC)" [fixed 0x0A] [7] none
    (fun _ => some .ldABc),
   row "LD A,(DE)" [fixed 0x1A] [7] none
    (fun _ => some .ldADe),
   row "LD A,(nn)" [fixed 0x3A, anyByte, anyByte] [4, 3, 6] none
    (fun x => some (.ldANn (xWord x 1))),
   row "LD (BC),A" [fixed 0x02] [7] none
    (fun _ => some .ldBcA),
   row "LD (DE),A" [fixed 0x12] [7] none
    (fun _ => some .ldDeA),
   row "LD (nn),A" [fixed 0x32, anyByte, anyByte] [4, 3, 6] none
    (fun x => some (.ldNnA (xWord x 1))),
   row "LD A,I" [fixed 0xED, fixed 0x57] [4, 5] none
    (fun _ => some .ldAI),
   row "LD A,R" [fixed 0xED, fixed 0x5F] [4, 5] none
    (fun _ => some .ldAR),
   row "LD I,A" [fixed 0xED, fixed 0x47] [4, 5] none
    (fun _ => some .ldIA),
   row "LD R,A" [fixed 0xED, fixed 0x4F] [4, 5] none
    (fun _ => some .ldRA)]

/-- The baseline descriptors of 16-bit loads, stack and exchange (R180 to R209). -/
def catalogLoad16 : Catalog Instr :=
  [
   row "LD dd,nn" [field 0x01 0x30 none, anyByte, anyByte] [4, 3, 3] none
    (fun x => some (.ldDdNn (.ofSel (xField2 x 0 4)) (xWord x 1))),
   row "LD IX,nn" [fixed 0xDD, fixed 0x21, anyByte, anyByte] [4, 4, 3, 3] none
    (fun x => some (.ldIxNn (xWord x 2))),
   row "LD IY,nn" [fixed 0xFD, fixed 0x21, anyByte, anyByte] [4, 4, 3, 3] none
    (fun x => some (.ldIyNn (xWord x 2))),
   row "LD HL,(nn)" [fixed 0x2A, anyByte, anyByte] [4, 3, 9] none
    (fun x => some (.ldHlMem (xWord x 1))),
   row "LD dd,(nn)" [fixed 0xED, field 0x4B 0x30 none, anyByte, anyByte] [4, 4, 3, 9] none
    (fun x => some (.ldDdMem (.ofSel (xField2 x 1 4)) (xWord x 2))),
   row "LD IX,(nn)" [fixed 0xDD, fixed 0x2A, anyByte, anyByte] [4, 4, 3, 9] none
    (fun x => some (.ldIxMem (xWord x 2))),
   row "LD IY,(nn)" [fixed 0xFD, fixed 0x2A, anyByte, anyByte] [4, 4, 3, 9] none
    (fun x => some (.ldIyMem (xWord x 2))),
   row "LD (nn),HL" [fixed 0x22, anyByte, anyByte] [4, 3, 9] none
    (fun x => some (.ldMemHl (xWord x 1))),
   row "LD (nn),dd" [fixed 0xED, field 0x43 0x30 none, anyByte, anyByte] [4, 4, 3, 9] none
    (fun x => some (.ldMemDd (xWord x 2) (.ofSel (xField2 x 1 4)))),
   row "LD (nn),IX" [fixed 0xDD, fixed 0x22, anyByte, anyByte] [4, 4, 3, 9] none
    (fun x => some (.ldMemIx (xWord x 2))),
   row "LD (nn),IY" [fixed 0xFD, fixed 0x22, anyByte, anyByte] [4, 4, 3, 9] none
    (fun x => some (.ldMemIy (xWord x 2))),
   row "LD SP,HL" [fixed 0xF9] [6] none
    (fun _ => some .ldSpHl),
   row "LD SP,IX" [fixed 0xDD, fixed 0xF9] [4, 6] none
    (fun _ => some .ldSpIx),
   row "LD SP,IY" [fixed 0xFD, fixed 0xF9] [4, 6] none
    (fun _ => some .ldSpIy),
   row "PUSH qq" [field 0xC5 0x30 none] [11] none
    (fun x => some (.pushQq (.ofSel (xField2 x 0 4)))),
   row "PUSH IX" [fixed 0xDD, fixed 0xE5] [4, 11] none
    (fun _ => some .pushIx),
   row "PUSH IY" [fixed 0xFD, fixed 0xE5] [4, 11] none
    (fun _ => some .pushIy),
   row "POP qq" [field 0xC1 0x30 none] [10] none
    (fun x => some (.popQq (.ofSel (xField2 x 0 4)))),
   row "POP IX" [fixed 0xDD, fixed 0xE1] [4, 10] none
    (fun _ => some .popIx),
   row "POP IY" [fixed 0xFD, fixed 0xE1] [4, 10] none
    (fun _ => some .popIy),
   row "EX DE,HL" [fixed 0xEB] [4] none
    (fun _ => some .exDeHl),
   row "EX AF,AF'" [fixed 0x08] [4] none
    (fun _ => some .exAfAf),
   row "EXX" [fixed 0xD9] [4] none
    (fun _ => some .exx),
   row "EX (SP),HL" [fixed 0xE3] [19] none
    (fun _ => some .exSpHl),
   row "EX (SP),IX" [fixed 0xDD, fixed 0xE3] [4, 19] none
    (fun _ => some .exSpIx),
   row "EX (SP),IY" [fixed 0xFD, fixed 0xE3] [4, 19] none
    (fun _ => some .exSpIy)]

/-- The baseline descriptors of 8-bit arithmetic and logic (R220 to R275), part 1. -/
def catalogArith8A : Catalog Instr :=
  [
   row "ADD A,r" [field 0x80 0x07 (some .lo3Ne6)] [4] none
    (fun x => (R8.ofSel (xField3 x 0 0)).map fun r => .addAR r),
   row "ADD A,n" [fixed 0xC6, anyByte] [4, 3] none
    (fun x => some (.addAN (xByte x 1))),
   row "ADD A,(HL)" [fixed 0x86] [7] none
    (fun _ => some .addAHl),
   row "ADD A,(IX+d)" [fixed 0xDD, fixed 0x86, anyByte] [4, 4, 11] none
    (fun x => some (.addAIx (xByte x 2))),
   row "ADD A,(IY+d)" [fixed 0xFD, fixed 0x86, anyByte] [4, 4, 11] none
    (fun x => some (.addAIy (xByte x 2))),
   row "ADC A,r" [field 0x88 0x07 (some .lo3Ne6)] [4] none
    (fun x => (R8.ofSel (xField3 x 0 0)).map fun r => .adcAR r),
   row "ADC A,n" [fixed 0xCE, anyByte] [4, 3] none
    (fun x => some (.adcAN (xByte x 1))),
   row "ADC A,(HL)" [fixed 0x8E] [7] none
    (fun _ => some .adcAHl),
   row "ADC A,(IX+d)" [fixed 0xDD, fixed 0x8E, anyByte] [4, 4, 11] none
    (fun x => some (.adcAIx (xByte x 2))),
   row "ADC A,(IY+d)" [fixed 0xFD, fixed 0x8E, anyByte] [4, 4, 11] none
    (fun x => some (.adcAIy (xByte x 2))),
   row "SUB r" [field 0x90 0x07 (some .lo3Ne6)] [4] none
    (fun x => (R8.ofSel (xField3 x 0 0)).map fun r => .subR r),
   row "SUB n" [fixed 0xD6, anyByte] [4, 3] none
    (fun x => some (.subN (xByte x 1))),
   row "SUB (HL)" [fixed 0x96] [7] none
    (fun _ => some .subHl),
   row "SUB (IX+d)" [fixed 0xDD, fixed 0x96, anyByte] [4, 4, 11] none
    (fun x => some (.subIx (xByte x 2))),
   row "SUB (IY+d)" [fixed 0xFD, fixed 0x96, anyByte] [4, 4, 11] none
    (fun x => some (.subIy (xByte x 2))),
   row "SBC A,r" [field 0x98 0x07 (some .lo3Ne6)] [4] none
    (fun x => (R8.ofSel (xField3 x 0 0)).map fun r => .sbcAR r),
   row "SBC A,n" [fixed 0xDE, anyByte] [4, 3] none
    (fun x => some (.sbcAN (xByte x 1))),
   row "SBC A,(HL)" [fixed 0x9E] [7] none
    (fun _ => some .sbcAHl),
   row "SBC A,(IX+d)" [fixed 0xDD, fixed 0x9E, anyByte] [4, 4, 11] none
    (fun x => some (.sbcAIx (xByte x 2))),
   row "SBC A,(IY+d)" [fixed 0xFD, fixed 0x9E, anyByte] [4, 4, 11] none
    (fun x => some (.sbcAIy (xByte x 2))),
   row "AND r" [field 0xA0 0x07 (some .lo3Ne6)] [4] none
    (fun x => (R8.ofSel (xField3 x 0 0)).map fun r => .andR r),
   row "AND n" [fixed 0xE6, anyByte] [4, 3] none
    (fun x => some (.andN (xByte x 1))),
   row "AND (HL)" [fixed 0xA6] [7] none
    (fun _ => some .andHl),
   row "AND (IX+d)" [fixed 0xDD, fixed 0xA6, anyByte] [4, 4, 11] none
    (fun x => some (.andIx (xByte x 2))),
   row "AND (IY+d)" [fixed 0xFD, fixed 0xA6, anyByte] [4, 4, 11] none
    (fun x => some (.andIy (xByte x 2))),
   row "XOR r" [field 0xA8 0x07 (some .lo3Ne6)] [4] none
    (fun x => (R8.ofSel (xField3 x 0 0)).map fun r => .xorR r)]

/-- The baseline descriptors of 8-bit arithmetic and logic (R220 to R275), part 2. -/
def catalogArith8B : Catalog Instr :=
  [
   row "XOR n" [fixed 0xEE, anyByte] [4, 3] none
    (fun x => some (.xorN (xByte x 1))),
   row "XOR (HL)" [fixed 0xAE] [7] none
    (fun _ => some .xorHl),
   row "XOR (IX+d)" [fixed 0xDD, fixed 0xAE, anyByte] [4, 4, 11] none
    (fun x => some (.xorIx (xByte x 2))),
   row "XOR (IY+d)" [fixed 0xFD, fixed 0xAE, anyByte] [4, 4, 11] none
    (fun x => some (.xorIy (xByte x 2))),
   row "OR r" [field 0xB0 0x07 (some .lo3Ne6)] [4] none
    (fun x => (R8.ofSel (xField3 x 0 0)).map fun r => .orR r),
   row "OR n" [fixed 0xF6, anyByte] [4, 3] none
    (fun x => some (.orN (xByte x 1))),
   row "OR (HL)" [fixed 0xB6] [7] none
    (fun _ => some .orHl),
   row "OR (IX+d)" [fixed 0xDD, fixed 0xB6, anyByte] [4, 4, 11] none
    (fun x => some (.orIx (xByte x 2))),
   row "OR (IY+d)" [fixed 0xFD, fixed 0xB6, anyByte] [4, 4, 11] none
    (fun x => some (.orIy (xByte x 2))),
   row "CP r" [field 0xB8 0x07 (some .lo3Ne6)] [4] none
    (fun x => (R8.ofSel (xField3 x 0 0)).map fun r => .cpR r),
   row "CP n" [fixed 0xFE, anyByte] [4, 3] none
    (fun x => some (.cpN (xByte x 1))),
   row "CP (HL)" [fixed 0xBE] [7] none
    (fun _ => some .cpHl),
   row "CP (IX+d)" [fixed 0xDD, fixed 0xBE, anyByte] [4, 4, 11] none
    (fun x => some (.cpIx (xByte x 2))),
   row "CP (IY+d)" [fixed 0xFD, fixed 0xBE, anyByte] [4, 4, 11] none
    (fun x => some (.cpIy (xByte x 2))),
   row "INC r" [field 0x04 0x38 (some .hi3Ne6)] [4] none
    (fun x => (R8.ofSel (xField3 x 0 3)).map fun r => .incR r),
   row "INC (HL)" [fixed 0x34] [11] none
    (fun _ => some .incMemHl),
   row "INC (IX+d)" [fixed 0xDD, fixed 0x34, anyByte] [4, 4, 15] none
    (fun x => some (.incMemIx (xByte x 2))),
   row "INC (IY+d)" [fixed 0xFD, fixed 0x34, anyByte] [4, 4, 15] none
    (fun x => some (.incMemIy (xByte x 2))),
   row "DEC r" [field 0x05 0x38 (some .hi3Ne6)] [4] none
    (fun x => (R8.ofSel (xField3 x 0 3)).map fun r => .decR r),
   row "DEC (HL)" [fixed 0x35] [11] none
    (fun _ => some .decMemHl),
   row "DEC (IX+d)" [fixed 0xDD, fixed 0x35, anyByte] [4, 4, 15] none
    (fun x => some (.decMemIx (xByte x 2))),
   row "DEC (IY+d)" [fixed 0xFD, fixed 0x35, anyByte] [4, 4, 15] none
    (fun x => some (.decMemIy (xByte x 2))),
   row "CPL" [fixed 0x2F] [4] none
    (fun _ => some .cpl),
   row "NEG" [fixed 0xED, fixed 0x44] [4, 4] none
    (fun _ => some .neg),
   row "CCF" [fixed 0x3F] [4] none
    (fun _ => some .ccf),
   row "SCF" [fixed 0x37] [4] none
    (fun _ => some .scf)]

/-- The baseline descriptors of 16-bit arithmetic (R290 to R301). -/
def catalogArith16 : Catalog Instr :=
  [
   row "ADD HL,ss" [field 0x09 0x30 none] [11] none
    (fun x => some (.addHlSs (.ofSel (xField2 x 0 4)))),
   row "ADC HL,ss" [fixed 0xED, field 0x4A 0x30 none] [4, 11] none
    (fun x => some (.adcHlSs (.ofSel (xField2 x 1 4)))),
   row "SBC HL,ss" [fixed 0xED, field 0x42 0x30 none] [4, 11] none
    (fun x => some (.sbcHlSs (.ofSel (xField2 x 1 4)))),
   row "ADD IX,pp" [fixed 0xDD, field 0x09 0x30 none] [4, 11] none
    (fun x => some (.addIxPp (.ofSel (xField2 x 1 4)))),
   row "ADD IY,rr" [fixed 0xFD, field 0x09 0x30 none] [4, 11] none
    (fun x => some (.addIyRr (.ofSel (xField2 x 1 4)))),
   row "INC ss" [field 0x03 0x30 none] [6] none
    (fun x => some (.incSs (.ofSel (xField2 x 0 4)))),
   row "DEC ss" [field 0x0B 0x30 none] [6] none
    (fun x => some (.decSs (.ofSel (xField2 x 0 4)))),
   row "INC IX" [fixed 0xDD, fixed 0x23] [4, 6] none
    (fun _ => some .incIx),
   row "DEC IX" [fixed 0xDD, fixed 0x2B] [4, 6] none
    (fun _ => some .decIx),
   row "INC IY" [fixed 0xFD, fixed 0x23] [4, 6] none
    (fun _ => some .incIy),
   row "DEC IY" [fixed 0xFD, fixed 0x2B] [4, 6] none
    (fun _ => some .decIy)]

/-- The baseline descriptors of rotates and shifts (R310 to R343), part 1. -/
def catalogRotateA : Catalog Instr :=
  [
   row "RLCA" [fixed 0x07] [4] none
    (fun _ => some .rlca),
   row "RRCA" [fixed 0x0F] [4] none
    (fun _ => some .rrca),
   row "RLA" [fixed 0x17] [4] none
    (fun _ => some .rla),
   row "RRA" [fixed 0x1F] [4] none
    (fun _ => some .rra),
   row "RLC r" [fixed 0xCB, field 0x00 0x07 (some .lo3Ne6)] [4, 4] none
    (fun x => (R8.ofSel (xField3 x 1 0)).map fun r => .rlcR r),
   row "RLC (HL)" [fixed 0xCB, fixed 0x06] [4, 11] none
    (fun _ => some .rlcHl),
   row "RLC (IX+d)" [fixed 0xDD, fixed 0xCB, anyByte, fixed 0x06] [4, 4, 3, 12] none
    (fun x => some (.rlcIx (xByte x 2))),
   row "RLC (IY+d)" [fixed 0xFD, fixed 0xCB, anyByte, fixed 0x06] [4, 4, 3, 12] none
    (fun x => some (.rlcIy (xByte x 2))),
   row "RRC r" [fixed 0xCB, field 0x08 0x07 (some .lo3Ne6)] [4, 4] none
    (fun x => (R8.ofSel (xField3 x 1 0)).map fun r => .rrcR r),
   row "RRC (HL)" [fixed 0xCB, fixed 0x0E] [4, 11] none
    (fun _ => some .rrcHl),
   row "RRC (IX+d)" [fixed 0xDD, fixed 0xCB, anyByte, fixed 0x0E] [4, 4, 3, 12] none
    (fun x => some (.rrcIx (xByte x 2))),
   row "RRC (IY+d)" [fixed 0xFD, fixed 0xCB, anyByte, fixed 0x0E] [4, 4, 3, 12] none
    (fun x => some (.rrcIy (xByte x 2))),
   row "RL r" [fixed 0xCB, field 0x10 0x07 (some .lo3Ne6)] [4, 4] none
    (fun x => (R8.ofSel (xField3 x 1 0)).map fun r => .rlR r),
   row "RL (HL)" [fixed 0xCB, fixed 0x16] [4, 11] none
    (fun _ => some .rlHl),
   row "RL (IX+d)" [fixed 0xDD, fixed 0xCB, anyByte, fixed 0x16] [4, 4, 3, 12] none
    (fun x => some (.rlIx (xByte x 2))),
   row "RL (IY+d)" [fixed 0xFD, fixed 0xCB, anyByte, fixed 0x16] [4, 4, 3, 12] none
    (fun x => some (.rlIy (xByte x 2))),
   row "RR r" [fixed 0xCB, field 0x18 0x07 (some .lo3Ne6)] [4, 4] none
    (fun x => (R8.ofSel (xField3 x 1 0)).map fun r => .rrR r),
   row "RR (HL)" [fixed 0xCB, fixed 0x1E] [4, 11] none
    (fun _ => some .rrHl),
   row "RR (IX+d)" [fixed 0xDD, fixed 0xCB, anyByte, fixed 0x1E] [4, 4, 3, 12] none
    (fun x => some (.rrIx (xByte x 2))),
   row "RR (IY+d)" [fixed 0xFD, fixed 0xCB, anyByte, fixed 0x1E] [4, 4, 3, 12] none
    (fun x => some (.rrIy (xByte x 2))),
   row "SLA r" [fixed 0xCB, field 0x20 0x07 (some .lo3Ne6)] [4, 4] none
    (fun x => (R8.ofSel (xField3 x 1 0)).map fun r => .slaR r),
   row "SLA (HL)" [fixed 0xCB, fixed 0x26] [4, 11] none
    (fun _ => some .slaHl),
   row "SLA (IX+d)" [fixed 0xDD, fixed 0xCB, anyByte, fixed 0x26] [4, 4, 3, 12] none
    (fun x => some (.slaIx (xByte x 2))),
   row "SLA (IY+d)" [fixed 0xFD, fixed 0xCB, anyByte, fixed 0x26] [4, 4, 3, 12] none
    (fun x => some (.slaIy (xByte x 2))),
   row "SRA r" [fixed 0xCB, field 0x28 0x07 (some .lo3Ne6)] [4, 4] none
    (fun x => (R8.ofSel (xField3 x 1 0)).map fun r => .sraR r),
   row "SRA (HL)" [fixed 0xCB, fixed 0x2E] [4, 11] none
    (fun _ => some .sraHl)]

/-- The baseline descriptors of rotates and shifts (R310 to R343), part 2. -/
def catalogRotateB : Catalog Instr :=
  [
   row "SRA (IX+d)" [fixed 0xDD, fixed 0xCB, anyByte, fixed 0x2E] [4, 4, 3, 12] none
    (fun x => some (.sraIx (xByte x 2))),
   row "SRA (IY+d)" [fixed 0xFD, fixed 0xCB, anyByte, fixed 0x2E] [4, 4, 3, 12] none
    (fun x => some (.sraIy (xByte x 2))),
   row "SRL r" [fixed 0xCB, field 0x38 0x07 (some .lo3Ne6)] [4, 4] none
    (fun x => (R8.ofSel (xField3 x 1 0)).map fun r => .srlR r),
   row "SRL (HL)" [fixed 0xCB, fixed 0x3E] [4, 11] none
    (fun _ => some .srlHl),
   row "SRL (IX+d)" [fixed 0xDD, fixed 0xCB, anyByte, fixed 0x3E] [4, 4, 3, 12] none
    (fun x => some (.srlIx (xByte x 2))),
   row "SRL (IY+d)" [fixed 0xFD, fixed 0xCB, anyByte, fixed 0x3E] [4, 4, 3, 12] none
    (fun x => some (.srlIy (xByte x 2)))]

/-- The baseline descriptors of control transfer, NOP, interrupt enable (R350 to R370). -/
def catalogControl : Catalog Instr :=
  [
   row "JP nn" [fixed 0xC3, anyByte, anyByte] [4, 3, 3] none
    (fun x => some (.jpNn (xWord x 1))),
   row "JP cc,nn" [field 0xC2 0x38 none, anyByte, anyByte] [4, 3, 3] (some [4, 3, 3])
    (fun x => some (.jpCc (.ofSel (xField3 x 0 3)) (xWord x 1))),
   row "JR e" [fixed 0x18, anyByte] [4, 8] none
    (fun x => some (.jr (xByte x 1))),
   row "JR cc,e" [field 0x20 0x18 none, anyByte] [4, 3] (some [4, 8])
    (fun x => some (.jrCc (.ofSel2 (xField2 x 0 3)) (xByte x 1))),
   row "JP (HL)" [fixed 0xE9] [4] none
    (fun _ => some .jpHl),
   row "JP (IX)" [fixed 0xDD, fixed 0xE9] [4, 4] none
    (fun _ => some .jpIx),
   row "JP (IY)" [fixed 0xFD, fixed 0xE9] [4, 4] none
    (fun _ => some .jpIy),
   row "DJNZ e" [fixed 0x10, anyByte] [5, 3] (some [5, 8])
    (fun x => some (.djnz (xByte x 1))),
   row "CALL nn" [fixed 0xCD, anyByte, anyByte] [4, 3, 10] none
    (fun x => some (.callNn (xWord x 1))),
   row "CALL cc,nn" [field 0xC4 0x38 none, anyByte, anyByte] [4, 3, 3] (some [4, 3, 10])
    (fun x => some (.callCc (.ofSel (xField3 x 0 3)) (xWord x 1))),
   row "RET" [fixed 0xC9] [10] none
    (fun _ => some .ret),
   row "RET cc" [field 0xC0 0x38 none] [5] (some [11])
    (fun x => some (.retCc (.ofSel (xField3 x 0 3)))),
   row "RETI" [fixed 0xED, fixed 0x4D] [4, 10] none
    (fun _ => some .reti),
   row "RETN" [fixed 0xED, fixed 0x45] [4, 10] none
    (fun _ => some .retn),
   row "RST p" [field 0xC7 0x38 none] [11] none
    (fun x => some (.rst (xByte x 0))),
   row "NOP" [fixed 0x00] [4] none
    (fun _ => some .nop),
   row "DI" [fixed 0xF3] [4] none
    (fun _ => some .di),
   row "EI" [fixed 0xFB] [4] none
    (fun _ => some .ei)]

/-- The baseline catalog: the 160 descriptors of spec/opcode_table.json in file order (R78, R5 item P1), each routine named
by the instruction it runs. `Machine.baselineCatalog` holds the effects. -/
def baseline : Catalog Instr :=
  catalogLoad8 ++ catalogLoad16 ++ catalogArith8A ++ catalogArith8B ++ catalogArith16 ++ catalogRotateA ++ catalogRotateB ++ catalogControl

/-! ## The decoder -/

/-- Why the decoder rejects a byte string. -/
inductive DecodeError where
  /-- No descriptor matches; the payload is the bytes fetched (R93, spec/60_exceptions.md R381). -/
  | illegalOpcode (fetched : List Byte)
  /-- The list ends while a descriptor under test still needs a byte. Memory always has a next byte, so this cannot
  happen to a step. -/
  | truncated
  /-- The selected descriptor's routine met a selector no table defines (R84, R403). No baseline descriptor can. -/
  | undefinedSelector (mnemonic : String)
  deriving DecidableEq, Repr

/-- Decode with a given catalog: select (R80), extract (R73), and name the routine; the rest of the bytes follows the
instruction. -/
def decodeWith (cat : Catalog Instr) (bytes : List Byte) : Except DecodeError (Instr × List Byte) :=
  match selectDescriptor cat bytes with
  | some d =>
    match d.routine (extractAll d.rules bytes) with
    | some i => .ok (i, bytes.drop d.length)
    | none => .error (.undefinedSelector d.mnemonic)
  | none =>
    if fetchCount cat bytes ≤ bytes.length then .error (.illegalOpcode (bytes.take (fetchCount cat bytes)))
    else .error .truncated

/-- The decoder of the baseline catalog, total on every byte string. -/
def decode (bytes : List Byte) : Except DecodeError (Instr × List Byte) := decodeWith baseline bytes

/-! ## The encoder -/

/-- The bytes of an instruction in memory order, from the bit patterns of spec/opcode_table.json (column
`encoding`). -/
def encode : Instr → List Byte
  | .ldRR dst src => [0b01#2 ++ dst.sel ++ src.sel]
  | .ldRN r n => [0b00#2 ++ r.sel ++ 0b110#3, n]
  | .ldRHl r => [0b01#2 ++ r.sel ++ 0b110#3]
  | .ldHlR r => [0b01110#5 ++ r.sel]
  | .ldHlN n => [0x36#8, n]
  | .ldRIx r d => [0xDD#8, 0b01#2 ++ r.sel ++ 0b110#3, d]
  | .ldRIy r d => [0xFD#8, 0b01#2 ++ r.sel ++ 0b110#3, d]
  | .ldIxR d r => [0xDD#8, 0b01110#5 ++ r.sel, d]
  | .ldIyR d r => [0xFD#8, 0b01110#5 ++ r.sel, d]
  | .ldIxN d n => [0xDD#8, 0x36#8, d, n]
  | .ldIyN d n => [0xFD#8, 0x36#8, d, n]
  | .ldABc => [0x0A#8]
  | .ldADe => [0x1A#8]
  | .ldANn nn => [0x3A#8, loByte nn, hiByte nn]
  | .ldBcA => [0x02#8]
  | .ldDeA => [0x12#8]
  | .ldNnA nn => [0x32#8, loByte nn, hiByte nn]
  | .ldAI => [0xED#8, 0x57#8]
  | .ldAR => [0xED#8, 0x5F#8]
  | .ldIA => [0xED#8, 0x47#8]
  | .ldRA => [0xED#8, 0x4F#8]
  | .ldDdNn dd nn => [0b00#2 ++ dd.sel ++ 0b0001#4, loByte nn, hiByte nn]
  | .ldIxNn nn => [0xDD#8, 0x21#8, loByte nn, hiByte nn]
  | .ldIyNn nn => [0xFD#8, 0x21#8, loByte nn, hiByte nn]
  | .ldHlMem nn => [0x2A#8, loByte nn, hiByte nn]
  | .ldDdMem dd nn => [0xED#8, 0b01#2 ++ dd.sel ++ 0b1011#4, loByte nn, hiByte nn]
  | .ldIxMem nn => [0xDD#8, 0x2A#8, loByte nn, hiByte nn]
  | .ldIyMem nn => [0xFD#8, 0x2A#8, loByte nn, hiByte nn]
  | .ldMemHl nn => [0x22#8, loByte nn, hiByte nn]
  | .ldMemDd nn dd => [0xED#8, 0b01#2 ++ dd.sel ++ 0b0011#4, loByte nn, hiByte nn]
  | .ldMemIx nn => [0xDD#8, 0x22#8, loByte nn, hiByte nn]
  | .ldMemIy nn => [0xFD#8, 0x22#8, loByte nn, hiByte nn]
  | .ldSpHl => [0xF9#8]
  | .ldSpIx => [0xDD#8, 0xF9#8]
  | .ldSpIy => [0xFD#8, 0xF9#8]
  | .pushQq qq => [0b11#2 ++ qq.sel ++ 0b0101#4]
  | .pushIx => [0xDD#8, 0xE5#8]
  | .pushIy => [0xFD#8, 0xE5#8]
  | .popQq qq => [0b11#2 ++ qq.sel ++ 0b0001#4]
  | .popIx => [0xDD#8, 0xE1#8]
  | .popIy => [0xFD#8, 0xE1#8]
  | .exDeHl => [0xEB#8]
  | .exAfAf => [0x08#8]
  | .exx => [0xD9#8]
  | .exSpHl => [0xE3#8]
  | .exSpIx => [0xDD#8, 0xE3#8]
  | .exSpIy => [0xFD#8, 0xE3#8]
  | .addAR r => [0b10000#5 ++ r.sel]
  | .addAN n => [0xC6#8, n]
  | .addAHl => [0x86#8]
  | .addAIx d => [0xDD#8, 0x86#8, d]
  | .addAIy d => [0xFD#8, 0x86#8, d]
  | .adcAR r => [0b10001#5 ++ r.sel]
  | .adcAN n => [0xCE#8, n]
  | .adcAHl => [0x8E#8]
  | .adcAIx d => [0xDD#8, 0x8E#8, d]
  | .adcAIy d => [0xFD#8, 0x8E#8, d]
  | .subR r => [0b10010#5 ++ r.sel]
  | .subN n => [0xD6#8, n]
  | .subHl => [0x96#8]
  | .subIx d => [0xDD#8, 0x96#8, d]
  | .subIy d => [0xFD#8, 0x96#8, d]
  | .sbcAR r => [0b10011#5 ++ r.sel]
  | .sbcAN n => [0xDE#8, n]
  | .sbcAHl => [0x9E#8]
  | .sbcAIx d => [0xDD#8, 0x9E#8, d]
  | .sbcAIy d => [0xFD#8, 0x9E#8, d]
  | .andR r => [0b10100#5 ++ r.sel]
  | .andN n => [0xE6#8, n]
  | .andHl => [0xA6#8]
  | .andIx d => [0xDD#8, 0xA6#8, d]
  | .andIy d => [0xFD#8, 0xA6#8, d]
  | .xorR r => [0b10101#5 ++ r.sel]
  | .xorN n => [0xEE#8, n]
  | .xorHl => [0xAE#8]
  | .xorIx d => [0xDD#8, 0xAE#8, d]
  | .xorIy d => [0xFD#8, 0xAE#8, d]
  | .orR r => [0b10110#5 ++ r.sel]
  | .orN n => [0xF6#8, n]
  | .orHl => [0xB6#8]
  | .orIx d => [0xDD#8, 0xB6#8, d]
  | .orIy d => [0xFD#8, 0xB6#8, d]
  | .cpR r => [0b10111#5 ++ r.sel]
  | .cpN n => [0xFE#8, n]
  | .cpHl => [0xBE#8]
  | .cpIx d => [0xDD#8, 0xBE#8, d]
  | .cpIy d => [0xFD#8, 0xBE#8, d]
  | .incR r => [0b00#2 ++ r.sel ++ 0b100#3]
  | .incMemHl => [0x34#8]
  | .incMemIx d => [0xDD#8, 0x34#8, d]
  | .incMemIy d => [0xFD#8, 0x34#8, d]
  | .decR r => [0b00#2 ++ r.sel ++ 0b101#3]
  | .decMemHl => [0x35#8]
  | .decMemIx d => [0xDD#8, 0x35#8, d]
  | .decMemIy d => [0xFD#8, 0x35#8, d]
  | .cpl => [0x2F#8]
  | .neg => [0xED#8, 0x44#8]
  | .ccf => [0x3F#8]
  | .scf => [0x37#8]
  | .addHlSs ss => [0b00#2 ++ ss.sel ++ 0b1001#4]
  | .adcHlSs ss => [0xED#8, 0b01#2 ++ ss.sel ++ 0b1010#4]
  | .sbcHlSs ss => [0xED#8, 0b01#2 ++ ss.sel ++ 0b0010#4]
  | .addIxPp pp => [0xDD#8, 0b00#2 ++ pp.sel ++ 0b1001#4]
  | .addIyRr rr => [0xFD#8, 0b00#2 ++ rr.sel ++ 0b1001#4]
  | .incSs ss => [0b00#2 ++ ss.sel ++ 0b0011#4]
  | .decSs ss => [0b00#2 ++ ss.sel ++ 0b1011#4]
  | .incIx => [0xDD#8, 0x23#8]
  | .decIx => [0xDD#8, 0x2B#8]
  | .incIy => [0xFD#8, 0x23#8]
  | .decIy => [0xFD#8, 0x2B#8]
  | .rlca => [0x07#8]
  | .rrca => [0x0F#8]
  | .rla => [0x17#8]
  | .rra => [0x1F#8]
  | .rlcR r => [0xCB#8, 0b00000#5 ++ r.sel]
  | .rlcHl => [0xCB#8, 0x06#8]
  | .rlcIx d => [0xDD#8, 0xCB#8, d, 0x06#8]
  | .rlcIy d => [0xFD#8, 0xCB#8, d, 0x06#8]
  | .rrcR r => [0xCB#8, 0b00001#5 ++ r.sel]
  | .rrcHl => [0xCB#8, 0x0E#8]
  | .rrcIx d => [0xDD#8, 0xCB#8, d, 0x0E#8]
  | .rrcIy d => [0xFD#8, 0xCB#8, d, 0x0E#8]
  | .rlR r => [0xCB#8, 0b00010#5 ++ r.sel]
  | .rlHl => [0xCB#8, 0x16#8]
  | .rlIx d => [0xDD#8, 0xCB#8, d, 0x16#8]
  | .rlIy d => [0xFD#8, 0xCB#8, d, 0x16#8]
  | .rrR r => [0xCB#8, 0b00011#5 ++ r.sel]
  | .rrHl => [0xCB#8, 0x1E#8]
  | .rrIx d => [0xDD#8, 0xCB#8, d, 0x1E#8]
  | .rrIy d => [0xFD#8, 0xCB#8, d, 0x1E#8]
  | .slaR r => [0xCB#8, 0b00100#5 ++ r.sel]
  | .slaHl => [0xCB#8, 0x26#8]
  | .slaIx d => [0xDD#8, 0xCB#8, d, 0x26#8]
  | .slaIy d => [0xFD#8, 0xCB#8, d, 0x26#8]
  | .sraR r => [0xCB#8, 0b00101#5 ++ r.sel]
  | .sraHl => [0xCB#8, 0x2E#8]
  | .sraIx d => [0xDD#8, 0xCB#8, d, 0x2E#8]
  | .sraIy d => [0xFD#8, 0xCB#8, d, 0x2E#8]
  | .srlR r => [0xCB#8, 0b00111#5 ++ r.sel]
  | .srlHl => [0xCB#8, 0x3E#8]
  | .srlIx d => [0xDD#8, 0xCB#8, d, 0x3E#8]
  | .srlIy d => [0xFD#8, 0xCB#8, d, 0x3E#8]
  | .jpNn nn => [0xC3#8, loByte nn, hiByte nn]
  | .jpCc cc nn => [0b11#2 ++ cc.sel ++ 0b010#3, loByte nn, hiByte nn]
  | .jr e => [0x18#8, e]
  | .jrCc cc e => [0b001#3 ++ cc.sel2 ++ 0b000#3, e]
  | .jpHl => [0xE9#8]
  | .jpIx => [0xDD#8, 0xE9#8]
  | .jpIy => [0xFD#8, 0xE9#8]
  | .djnz e => [0x10#8, e]
  | .callNn nn => [0xCD#8, loByte nn, hiByte nn]
  | .callCc cc nn => [0b11#2 ++ cc.sel ++ 0b100#3, loByte nn, hiByte nn]
  | .ret => [0xC9#8]
  | .retCc cc => [0b11#2 ++ cc.sel ++ 0b000#3]
  | .reti => [0xED#8, 0x4D#8]
  | .retn => [0xED#8, 0x45#8]
  | .rst p => [0b11#2 ++ p.extractLsb' 3 3 ++ 0b111#3]
  | .nop => [0x00#8]
  | .di => [0xF3#8]
  | .ei => [0xFB#8]

/-! ## The table's numbering of an instruction's bits -/

/-- The n bytes of a table word, first byte most significant (R99: "first byte most significant"; the `match`, `mask`
and `fixed` columns of spec/opcode_table.json are read so). Log entry 6. -/
def tableBytes : Nat → Nat → List Byte
  | 0, _ => []
  | n + 1, w => BitVec.ofNat 8 (w / 256 ^ n) :: tableBytes n w

/-- The bytes of a table word of `nbits` bits, followed by zero bytes up to the longest instruction, four bytes
(R5 item P14). -/
def tableWordBytes (nbits w : Nat) : List Byte :=
  tableBytes (nbits / 8) w ++ List.replicate (4 - nbits / 8) 0x00

/-- The instruction the decoder reads from the bits of a table word. -/
def decodeTableWord (nbits w : Nat) : Option Instr :=
  match decode (tableWordBytes nbits w) with
  | .ok (i, _) => some i
  | .error _ => none

end Sys2Proof
end

