-- ==== Sys2Proof/Config.lean ====
section
/-! DEFINITION. What the spec leaves to the implementation or the launch, as named constants. Each one is a
DESIGN CHOICE of the model with a row in notes/assumptions; everything the spec itself fixes stands in the
files that use it. -/

namespace Sys2Proof

/-- The launch argument `InitRegs` (spec/10_state.md R35, spec/92_eei_decisions.md D32): a value for every cell
whose reset value is unspecified. -/
structure InitRegs where
  af  : Word
  bc  : Word
  de  : Word
  hl  : Word
  af' : Word
  bc' : Word
  de' : Word
  hl' : Word
  ix  : Word
  iy  : Word
  sp  : Word
  deriving DecidableEq, Repr

namespace Config

/-- The `InitRegs` of `State.reset`: zero in every cell R35 leaves unspecified. DESIGN CHOICE, unsafe: log entry 1. -/
def initRegs : InitRegs :=
  { af := 0, bc := 0, de := 0, hl := 0, af' := 0, bc' := 0, de' := 0, hl' := 0, ix := 0, iy := 0, sp := 0 }

/-- What an address that memory does not list reads as. DESIGN CHOICE, unsafe: log entry 2 (R35 leaves memory at
reset unspecified, and R52 says no access can fail). -/
def unlistedByte : Byte := 0x00

/-- The number of bytes of the address space (R50, R5 item P4). -/
def memorySize : Nat := 65536

/-- The cause code of IllegalOpcode (spec/60_exceptions.md R380, spec/92_eei_decisions.md D14). -/
def illegalOpcodeCode : Nat := 1

/-- The cause code of MalformedDescriptor (R380, D14). -/
def malformedDescriptorCode : Nat := 2

end Config

end Sys2Proof
end

