-- ==== Sys2Proof/Machine/State.lean ====
section
/-! DEFINITION. The state of the hardware as plain data (spec/10_state.md R20: "exactly these cells"), the memory of
the backend it reaches (spec/20_memory.md R50), the one fault (spec/60_exceptions.md R381) and the refusals, and the
state after reset (R35, spec/70_reset_and_hazards.md R400). The 8-bit views of a pair are slices of its cell, so the
aliasing R21 asks for is structural; Machine/Ops.lean reads and writes them. -/

namespace Sys2Proof.Machine

/-- The backend's contents (R50, R51): (address, byte) pairs, addresses strictly rising and below 65536, no entry equal
to what an unlisted address reads as. `Memory.wf` in Machine/Ops.lean says so. -/
abbrev Memory := List Host.Cell

/-- The cells of R20, in its order, and the memory. R33 and R36: there is nothing else. -/
structure State where
  /-- A (high) and F (low): accumulator and flags (R21, R27). -/
  af   : Word
  /-- B (high) and C (low). -/
  bc   : Word
  /-- D (high) and E (low). -/
  de   : Word
  /-- H (high) and L (low), the memory pointer. -/
  hl   : Word
  /-- The shadow of AF (R25). -/
  af'  : Word
  /-- The shadow of BC (R25). -/
  bc'  : Word
  /-- The shadow of DE (R25). -/
  de'  : Word
  /-- The shadow of HL (R25). -/
  hl'  : Word
  /-- Index register (R26). -/
  ix   : Word
  /-- Index register (R26). -/
  iy   : Word
  /-- Stack pointer (R26). -/
  sp   : Word
  /-- Program counter: between steps the address of the next instruction (R26); inside a step, from the selection on,
  the address after the instruction (R82). -/
  pc   : Word
  /-- I (high) and R (low): interrupt vector and refresh counter, plain storage (R30, R31). -/
  ir   : Word
  /-- Interrupt-enable flip-flop 1 (R32). -/
  iff1 : Bool
  /-- Interrupt-enable flip-flop 2 (R32). -/
  iff2 : Bool
  /-- The backend's memory (R50). -/
  mem  : Memory
  deriving DecidableEq, Repr

/-- The faults of a step. R380: there is one. -/
inductive Fault where
  /-- IllegalOpcode (R93, R381), cause code 1: no descriptor matches at `pc`; `fetched` holds the bytes fetched so far.
  Raised by the dispatcher before any execution routine runs. Safe: the spec gives this outcome and no next state. -/
  | illegalOpcode (pc : Word) (fetched : List Byte)
  deriving DecidableEq, Repr

/-- The cause code of a fault (R380, D14). -/
def Fault.code : Fault → Nat
  | .illegalOpcode _ _ => Config.illegalOpcodeCode

/-- The refusals of the model. R10: the hardware has no third outcome, and the baseline catalog reaches none of these. R10
leaves to the model which catalogs it will not admit; DESIGN CHOICE (log entry 7): it admits every catalog, with any
predicates and any routines, and refuses a step, not a catalog, where a routine is not written for what was extracted. -/
inductive Refusal where
  /-- An instruction without a meaning yet; raised by an arm of `exec` only. No arm raises it now. Safe. -/
  | notModelled (mnemonic : String)
  /-- The selected descriptor of a catalog other than the baseline let a selector through that its routine is not written
  for (spec/93_implementation_defined.md U13, R403: "a routine that indexes r8 with 6 is undefined"); raised by the
  dispatcher. Safe. -/
  | undefinedSelector (mnemonic : String)
  /-- A meaning of `exec` ended in a fault, which R384 excludes ("nothing after that point can fault"); raised by
  `routineOf` only, and by no instruction (`exec_next` in Laws/Step.lean). Safe. -/
  | routineFault (f : Fault)
  deriving DecidableEq, Repr

/-- The machine created with given launch arguments (R35, R400, D32): PC, I and R are zero, IFF1 and IFF2 false;
every other cell and the memory are the launch's. -/
def State.launch (r : InitRegs) (m : Memory) : State :=
  { af := r.af, bc := r.bc, de := r.de, hl := r.hl, af' := r.af', bc' := r.bc', de' := r.de', hl' := r.hl',
    ix := r.ix, iy := r.iy, sp := r.sp, pc := 0x0000, ir := 0x0000, iff1 := false, iff2 := false, mem := m }

/-- The machine right after reset: the launch with the model's `InitRegs` (log entry 1) and memory with nothing listed
(log entry 2). -/
def State.reset : State := State.launch Config.initRegs []

end Sys2Proof.Machine
end

