-- ==== Sys2Proof/Machine/Ops.lean ====
section
/-! DEFINITION. The named operations over registers and memory: the views of a pair (spec/10_state.md R21), the
backend's `get` and `set` and the two-byte accesses built from them (spec/20_memory.md R51, R53), Push and Pop
(spec/42_load16_exchange.md R181, R182), the exchanges (R183), and the one fault with the return that pops the
program counter (spec/60_exceptions.md R381, R387, R388). -/

namespace Sys2Proof.Machine

/-- What an execution routine answers. -/
abbrev Result := Host.Outcome State Fault Refusal

/-! ## The 8-bit views -/

namespace State

/-- A, the high view of AF (R21, R22). -/
def a (s : State) : Byte := hiByte s.af
/-- F, the low view of AF (R27). -/
def f (s : State) : Byte := loByte s.af
/-- B, the high view of BC. -/
def b (s : State) : Byte := hiByte s.bc
/-- C, the low view of BC. -/
def c (s : State) : Byte := loByte s.bc
/-- D, the high view of DE. -/
def d (s : State) : Byte := hiByte s.de
/-- E, the low view of DE. -/
def e (s : State) : Byte := loByte s.de
/-- H, the high view of HL. -/
def h (s : State) : Byte := hiByte s.hl
/-- L, the low view of HL. -/
def l (s : State) : Byte := loByte s.hl
/-- I, the high view of IR (R30). -/
def i (s : State) : Byte := hiByte s.ir
/-- R, the low view of IR (R31). -/
def r (s : State) : Byte := loByte s.ir

/-- Writing a view replaces its half and leaves the other (R21). -/
def setA (v : Byte) (s : State) : State := { s with af := wordOf v s.f }
/-- Write F. -/
def setF (v : Byte) (s : State) : State := { s with af := wordOf s.a v }
/-- Write B. -/
def setB (v : Byte) (s : State) : State := { s with bc := wordOf v s.c }
/-- Write C. -/
def setC (v : Byte) (s : State) : State := { s with bc := wordOf s.b v }
/-- Write D. -/
def setD (v : Byte) (s : State) : State := { s with de := wordOf v s.e }
/-- Write E. -/
def setE (v : Byte) (s : State) : State := { s with de := wordOf s.d v }
/-- Write H. -/
def setH (v : Byte) (s : State) : State := { s with hl := wordOf v s.l }
/-- Write L. -/
def setL (v : Byte) (s : State) : State := { s with hl := wordOf s.h v }
/-- Write I; the other half of IR is unchanged (R173). -/
def setI (v : Byte) (s : State) : State := { s with ir := wordOf v s.r }
/-- Write R; the other half of IR is unchanged (R174). -/
def setR (v : Byte) (s : State) : State := { s with ir := wordOf s.i v }

/-- Write the program counter (R8). -/
def setPc (w : Word) (s : State) : State := { s with pc := w }

/-! ## Registers named by a selector -/

/-- Read `r8[k]` (R84). -/
def readR8 : R8 → State → Byte
  | .b => b | .c => c | .d => d | .e => e | .h => h | .l => l | .a => a

/-- Write `r8[k]` (R84). -/
def writeR8 : R8 → Byte → State → State
  | .b => setB | .c => setC | .d => setD | .e => setE | .h => setH | .l => setL | .a => setA

/-- Read `rp[k]` (R85). -/
def readRp (p : Rp) (s : State) : Word :=
  match p with | .bc => s.bc | .de => s.de | .hl => s.hl | .sp => s.sp

/-- Write `rp[k]` (R85). -/
def writeRp (p : Rp) (w : Word) (s : State) : State :=
  match p with
  | .bc => { s with bc := w }
  | .de => { s with de := w }
  | .hl => { s with hl := w }
  | .sp => { s with sp := w }

/-- Read `rp2[k]` (R86). -/
def readRp2 (p : Rp2) (s : State) : Word :=
  match p with | .bc => s.bc | .de => s.de | .hl => s.hl | .af => s.af

/-- Write `rp2[k]` (R86). AF is written as a whole cell, all eight bits of F included (R27). -/
def writeRp2 (p : Rp2) (w : Word) (s : State) : State :=
  match p with
  | .bc => { s with bc := w }
  | .de => { s with de := w }
  | .hl => { s with hl := w }
  | .af => { s with af := w }

/-- Read `rpx[k]` (R87). -/
def readRpx (p : Rpx) (s : State) : Word :=
  match p with | .bc => s.bc | .de => s.de | .ix => s.ix | .sp => s.sp

/-- Read `rpy[k]` (R87). -/
def readRpy (p : Rpy) (s : State) : Word :=
  match p with | .bc => s.bc | .de => s.de | .iy => s.iy | .sp => s.sp

end State

/-! ## Memory: the backend's two operations -/

/-- The byte at a key: the listed one, else what an unlisted address reads as (R59, log entry 2). -/
def Memory.lookup : Memory → Nat → Byte
  | [], _ => Config.unlistedByte
  | (k, v) :: m, n => if k = n then v else Memory.lookup m n

/-- The list without any entry at a key. -/
def Memory.erase (n : Nat) : Memory → Memory
  | [] => []
  | (k, v) :: m => if k = n then Memory.erase n m else (k, v) :: Memory.erase n m

/-- An entry put where its address stands in the order. -/
def Memory.place (n : Nat) (v : Byte) : Memory → Memory
  | [] => [(n, v)]
  | (k, w) :: m => if n < k then (n, v) :: (k, w) :: m else (k, w) :: Memory.place n v m

/-- Put a byte at a key: the key's entry is replaced, or removed when the byte is what an unlisted address reads as. -/
def Memory.insert (n : Nat) (v : Byte) (m : Memory) : Memory :=
  if v = Config.unlistedByte then Memory.erase n m else Memory.place n v (Memory.erase n m)

/-- Every address of the list is at least `low`, they rise strictly and stay below 65536, and no entry holds what an
unlisted address reads as. -/
def Memory.wfFrom (low : Nat) : Memory → Bool
  | [] => true
  | (k, v) :: m =>
    decide (low ≤ k) && decide (k < Config.memorySize) && decide (v ≠ Config.unlistedByte) && Memory.wfFrom (k + 1) m

/-- The canonical form of a memory. -/
def Memory.wf (m : Memory) : Bool := Memory.wfFrom 0 m

/-- The backend's `get(address)` (R51). -/
def Memory.get (m : Memory) (addr : Word) : Byte := Memory.lookup m addr.toNat

/-- The backend's `set(address, value)` (R51). -/
def Memory.set (m : Memory) (addr : Word) (v : Byte) : Memory := Memory.insert addr.toNat v m

namespace State

/-- `MemRead(a, 1)` (R51). No access fails (R52). -/
def memRead8 (addr : Word) (s : State) : Byte := s.mem.get addr

/-- `MemWrite(a, 1, v)` (R51). -/
def memWrite8 (addr : Word) (v : Byte) (s : State) : State := { s with mem := s.mem.set addr v }

/-- `MemRead(a, 2)`: the low byte is at the lower address, and `a + 1` wraps (R53). -/
def memRead16 (addr : Word) (s : State) : Word := wordOf (s.memRead8 (addr + 1)) (s.memRead8 addr)

/-- `MemWrite(a, 2, w)`: the low byte first, at the lower address (R53). -/
def memWrite16 (addr w : Word) (s : State) : State :=
  (s.memWrite8 addr (loByte w)).memWrite8 (addr + 1) (hiByte w)

/-- `Push(w)`: the high byte at SP - 1, then the low byte at SP - 2, where SP is left (R181). -/
def push (w : Word) (s : State) : State :=
  let s1 := { s with sp := s.sp - 1 }
  let s2 := s1.memWrite8 s1.sp (hiByte w)
  let s3 := { s2 with sp := s2.sp - 1 }
  s3.memWrite8 s3.sp (loByte w)

/-- `Pop()`: the low byte at SP, then the high byte at SP + 1; SP is left at SP + 2 (R182). -/
def pop (s : State) : Word × State :=
  let lo := s.memRead8 s.sp
  let s1 := { s with sp := s.sp + 1 }
  let hi := s1.memRead8 s1.sp
  let s2 := { s1 with sp := s1.sp + 1 }
  (wordOf hi lo, s2)

/-- Pop the program counter: what every return does (spec/46_control.md R363 to R366, R388). -/
def popPc (s : State) : State :=
  let (w, s1) := s.pop
  s1.setPc w

/-- Push the address of the next instruction and go to `target`: what every call and restart does (R361, R367). -/
def call (target : Word) (s : State) : State := (s.push s.pc).setPc target

/-- Exchange a word with the word on top of the stack (R207): the word that was in memory, and the state with the
given word stored in its place. -/
def exchangeTop (w : Word) (s : State) : Word × State := (s.memRead16 s.sp, s.memWrite16 s.sp w)

/-- Add a signed displacement to PC, which already holds the address of the next instruction (R91). -/
def jumpRelative (e : Byte) (s : State) : State := s.setPc (s.pc + sext16 e)

end State

/-- IllegalOpcode, the hardware's one fault (R381): it carries the address of the instruction and the bytes fetched,
and there is no next state. Nothing is saved and no handler is entered (R387). -/
def raiseIllegalOpcode (pc0 : Word) (fetched : List Byte) : Host.Outcome α Fault Refusal :=
  .fault (.illegalOpcode pc0 fetched)

end Sys2Proof.Machine
end

