-- ==== Sys2Proof/Machine/Flags.lean ====
section
/-! DEFINITION. The flag algebra (spec/40_alu_flags.md R110 to R115) and the ALU functions (R116 to R141). An ALU
function returns its result and a directive set and reads nothing but its arguments (R118); `applyFlags` resolves the
set against the old F in one write (R112). Sums and differences are computed on unbounded integers and narrowed at
the end (R7). -/

namespace Sys2Proof.Machine

/-! ## The flag algebra -/

/-- A directive for one flag (R111). -/
inductive Directive where
  | set
  | reset
  | cond (b : Bool)
  | keep
  deriving DecidableEq, Repr

/-- A directive set: one directive per flag, `keep` where none is named (R111). -/
structure Directives where
  s  : Directive := .keep
  z  : Directive := .keep
  h  : Directive := .keep
  pv : Directive := .keep
  n  : Directive := .keep
  c  : Directive := .keep
  deriving DecidableEq, Repr

/-- The new value of one flag from its old value (R112). -/
def Directive.resolve : Directive → Bool → Bool
  | .set, _ => true
  | .reset, _ => false
  | .cond b, _ => b
  | .keep, old => old

/-- `apply(F, dir)` (R112): S bit 7, Z bit 6, H bit 4, P/V bit 2, N bit 1, C bit 0 (R28); bits 5 and 3 are copied
(R115). -/
def applyFlags (F : Byte) (dir : Directives) : Byte :=
  BitVec.ofBool (dir.s.resolve (F.getLsbD 7)) ++ BitVec.ofBool (dir.z.resolve (F.getLsbD 6)) ++
  BitVec.ofBool (F.getLsbD 5) ++ BitVec.ofBool (dir.h.resolve (F.getLsbD 4)) ++
  BitVec.ofBool (F.getLsbD 3) ++ BitVec.ofBool (dir.pv.resolve (F.getLsbD 2)) ++
  BitVec.ofBool (dir.n.resolve (F.getLsbD 1)) ++ BitVec.ofBool (dir.c.resolve (F.getLsbD 0))

namespace State

/-- `F <- apply(F, dir)` (R112). -/
def flag (dir : Directives) (s : State) : State := s.setF (applyFlags s.f dir)

/-- F.C, the carry-in of the functions that take one (R119). -/
def carry (s : State) : Bool := s.f.getLsbD 0

end State

/-- What an ALU function returns: the result and the directive set (R9). -/
structure Alu (w : Nat) where
  value : BitVec w
  dir   : Directives
  deriving DecidableEq, Repr

/-- How many 1 bits a byte has. -/
def onesCount (v : Byte) : Nat :=
  (v.getLsbD 0).toNat + (v.getLsbD 1).toNat + (v.getLsbD 2).toNat + (v.getLsbD 3).toNat +
  (v.getLsbD 4).toNat + (v.getLsbD 5).toNat + (v.getLsbD 6).toNat + (v.getLsbD 7).toNat

/-- `parity(v)`: the number of 1 bits is even (R117). -/
def parity (v : Byte) : Bool := onesCount v % 2 == 0

/-! ## 8-bit arithmetic -/

/-- `add8(a, b)` (R120). -/
def add8 (a b : Byte) : Alu 8 :=
  let sum := a.toNat + b.toNat
  let r := BitVec.ofNat 8 sum
  { value := r
    dir :=
      { s := .cond (r.getLsbD 7)
        z := .cond (r == 0)
        h := .cond (decide ((a &&& 0x0F).toNat + (b &&& 0x0F).toNat > 0x0F))
        pv := .cond ((a ^^^ r) &&& (b ^^^ r) &&& 0x80 != 0)
        n := .reset
        c := .cond (decide (sum > 255)) } }

/-- `adc8(a, b, c)` (R121): the carry-in is in the sum before every flag is derived. -/
def adc8 (a b : Byte) (c : Bool) : Alu 8 :=
  let sum := a.toNat + b.toNat + c.toNat
  let r := BitVec.ofNat 8 sum
  { value := r
    dir :=
      { s := .cond (r.getLsbD 7)
        z := .cond (r == 0)
        h := .cond (decide ((a &&& 0x0F).toNat + (b &&& 0x0F).toNat + c.toNat > 0x0F))
        pv := .cond ((a ^^^ r) &&& (b ^^^ r) &&& 0x80 != 0)
        n := .reset
        c := .cond (decide (sum > 255)) } }

/-- `sub8(a, b)` (R122): C is the borrow. -/
def sub8 (a b : Byte) : Alu 8 :=
  let diff : Int := (a.toNat : Int) - b.toNat
  let r := BitVec.ofInt 8 diff
  { value := r
    dir :=
      { s := .cond (r.getLsbD 7)
        z := .cond (r == 0)
        h := .cond (decide ((a &&& 0x0F).toNat < (b &&& 0x0F).toNat))
        pv := .cond ((a ^^^ b) &&& (a ^^^ r) &&& 0x80 != 0)
        n := .set
        c := .cond (decide (diff < 0)) } }

/-- `sbc8(a, b, c)` (R123): the borrow-in is in the nibble difference and the overflow. -/
def sbc8 (a b : Byte) (c : Bool) : Alu 8 :=
  let diff : Int := (a.toNat : Int) - b.toNat - c.toNat
  let r := BitVec.ofInt 8 diff
  { value := r
    dir :=
      { s := .cond (r.getLsbD 7)
        z := .cond (r == 0)
        h := .cond (decide (((a &&& 0x0F).toNat : Int) - (b &&& 0x0F).toNat - c.toNat < 0))
        pv := .cond ((a ^^^ b) &&& (a ^^^ r) &&& 0x80 != 0)
        n := .set
        c := .cond (decide (diff < 0)) } }

/-! ## 8-bit logic -/

/-- The directives the three logic functions share (R124 to R126); they differ in H. -/
def logicDirectives (r : Byte) (half : Directive) : Directives :=
  { s := .cond (r.getLsbD 7), z := .cond (r == 0), h := half, pv := .cond (parity r), n := .reset, c := .reset }

/-- `and8(a, b)` (R124). -/
def and8 (a b : Byte) : Alu 8 := { value := a &&& b, dir := logicDirectives (a &&& b) .set }

/-- `or8(a, b)` (R125). -/
def or8 (a b : Byte) : Alu 8 := { value := a ||| b, dir := logicDirectives (a ||| b) .reset }

/-- `xor8(a, b)` (R126). -/
def xor8 (a b : Byte) : Alu 8 := { value := a ^^^ b, dir := logicDirectives (a ^^^ b) .reset }

/-! ## 8-bit increment and decrement -/

/-- `inc8(a)` (R127): C is kept. -/
def inc8 (a : Byte) : Alu 8 :=
  let r := a + 1
  { value := r
    dir :=
      { s := .cond (r.getLsbD 7), z := .cond (r == 0), h := .cond (a &&& 0x0F == 0x0F), pv := .cond (a == 0x7F),
        n := .reset, c := .keep } }

/-- `dec8(a)` (R128): C is kept. -/
def dec8 (a : Byte) : Alu 8 :=
  let r := a - 1
  { value := r
    dir :=
      { s := .cond (r.getLsbD 7), z := .cond (r == 0), h := .cond (a &&& 0x0F == 0x00), pv := .cond (a == 0x80),
        n := .set, c := .keep } }

/-! ## 16-bit arithmetic -/

/-- `add16(a, b)` (R129): H, N, C only; S, Z, P/V are kept. -/
def add16 (a b : Word) : Alu 16 :=
  let sum := a.toNat + b.toNat
  { value := BitVec.ofNat 16 sum
    dir :=
      { h := .cond (decide ((a &&& 0x0FFF).toNat + (b &&& 0x0FFF).toNat > 0x0FFF))
        n := .reset
        c := .cond (decide (sum > 65535)) } }

/-- `adc16(a, b, c)` (R130). -/
def adc16 (a b : Word) (c : Bool) : Alu 16 :=
  let sum := a.toNat + b.toNat + c.toNat
  let r := BitVec.ofNat 16 sum
  { value := r
    dir :=
      { s := .cond (r.getLsbD 15)
        z := .cond (r == 0)
        h := .cond (decide ((a &&& 0x0FFF).toNat + (b &&& 0x0FFF).toNat + c.toNat > 0x0FFF))
        pv := .cond ((a ^^^ r) &&& (b ^^^ r) &&& 0x8000 != 0)
        n := .reset
        c := .cond (decide (sum > 65535)) } }

/-- `sbc16(a, b, c)` (R131). -/
def sbc16 (a b : Word) (c : Bool) : Alu 16 :=
  let diff : Int := (a.toNat : Int) - b.toNat - c.toNat
  let r := BitVec.ofInt 16 diff
  { value := r
    dir :=
      { s := .cond (r.getLsbD 15)
        z := .cond (r == 0)
        h := .cond (decide (((a &&& 0x0FFF).toNat : Int) - (b &&& 0x0FFF).toNat - c.toNat < 0))
        pv := .cond ((a ^^^ b) &&& (a ^^^ r) &&& 0x8000 != 0)
        n := .set
        c := .cond (decide (diff < 0)) } }

/-- `inc16(a)`: wraps, no directive set (R132). -/
def inc16 (a : Word) : Word := a + 1

/-- `dec16(a)`: wraps, no directive set (R132). -/
def dec16 (a : Word) : Word := a - 1

/-! ## Rotates and shifts -/

/-- The flags of the rotate and shift family from the result and the bit moved out (R116). -/
def shiftAlu (r : Byte) (out : Bool) : Alu 8 :=
  { value := r
    dir := { s := .cond (r.getLsbD 7), z := .cond (r == 0), h := .reset, pv := .cond (parity r), n := .reset, c := .cond out } }

/-- `rlc8(a)` (R133). -/
def rlc8 (a : Byte) : Alu 8 := shiftAlu (a <<< 1 ||| bitByte (a.getLsbD 7)) (a.getLsbD 7)

/-- `rrc8(a)` (R134). -/
def rrc8 (a : Byte) : Alu 8 := shiftAlu (a >>> 1 ||| bitByte (a.getLsbD 0) <<< 7) (a.getLsbD 0)

/-- `rl8(a, c)` (R135). -/
def rl8 (a : Byte) (c : Bool) : Alu 8 := shiftAlu (a <<< 1 ||| bitByte c) (a.getLsbD 7)

/-- `rr8(a, c)` (R136). -/
def rr8 (a : Byte) (c : Bool) : Alu 8 := shiftAlu (a >>> 1 ||| bitByte c <<< 7) (a.getLsbD 0)

/-- `sla8(a)` (R137). -/
def sla8 (a : Byte) : Alu 8 := shiftAlu (a <<< 1) (a.getLsbD 7)

/-- `sra8(a)` (R138): bit 7 keeps its value. -/
def sra8 (a : Byte) : Alu 8 := shiftAlu (a >>> 1 ||| a &&& 0x80) (a.getLsbD 0)

/-- `srl8(a)` (R139). -/
def srl8 (a : Byte) : Alu 8 := shiftAlu (a >>> 1) (a.getLsbD 0)

/-- The directive set with S, Z and P/V replaced by `keep`: what RLCA, RRCA, RLA and RRA apply (spec/45_rotate_shift.md
R311). -/
def Directives.keepSZPv (dir : Directives) : Directives := { dir with s := .keep, z := .keep, pv := .keep }

end Sys2Proof.Machine
end

