-- ==== Sys2Proof/Machine/Operands.lean ====
section
/-! DEFINITION. The memory operand forms of the baseline catalog and their effective addresses: `(HL)`, `(BC)`,
`(DE)`, `(nn)`, `(IX+d)`, `(IY+d)` (spec/30_encoding.md R88 to R90; spec/41_load8.md R150, R151; spec/43_arith8.md
R221); the conditions (spec/46_control.md R351); and the places an ALU result goes, written `y <- fn!(args)` in the
spec (spec/00_scope.md R9). -/

namespace Sys2Proof.Machine

/-- A memory operand. -/
inductive MemOp where
  /-- The byte at HL. -/
  | hl
  /-- The byte at BC. -/
  | bc
  /-- The byte at DE. -/
  | de
  /-- The byte at an absolute address. -/
  | abs (nn : Word)
  /-- The byte at IX plus a signed displacement. -/
  | ix (d : Byte)
  /-- The byte at IY plus a signed displacement. -/
  | iy (d : Byte)
  deriving DecidableEq, Repr

/-- The effective address; the index forms wrap modulo 65536 (R90, R151). -/
def MemOp.ea (m : MemOp) (s : State) : Word :=
  match m with
  | .hl => s.hl
  | .bc => s.bc
  | .de => s.de
  | .abs nn => nn
  | .ix d => s.ix + sext16 d
  | .iy d => s.iy + sext16 d

namespace State

/-- Read a memory operand: one `get` (R55). -/
def load (m : MemOp) (s : State) : Byte := s.memRead8 (m.ea s)

/-- Write a memory operand: one `set` (R55). -/
def store (m : MemOp) (v : Byte) (s : State) : State := s.memWrite8 (m.ea s) v

/-- `Cond(k)` reads F as it is before the instruction (spec/46_control.md R351). -/
def cond (cc : Cond) (s : State) : Bool :=
  match cc with
  | .nz => !s.f.getLsbD 6
  | .z => s.f.getLsbD 6
  | .nc => !s.f.getLsbD 0
  | .c => s.f.getLsbD 0
  | .po => !s.f.getLsbD 2
  | .pe => s.f.getLsbD 2
  | .p => !s.f.getLsbD 7
  | .m => s.f.getLsbD 7

/-- `A <- fn!(…)`: the result to A, then F (R9). -/
def aluToA (x : Alu 8) (s : State) : State := (s.setA x.value).flag x.dir

/-- `r8[k] <- fn!(…)` (R9). -/
def aluToR8 (r : R8) (x : Alu 8) (s : State) : State := (s.writeR8 r x.value).flag x.dir

/-- `MemWrite(ea, 1, fn!(…))`: the address is computed once (R57). -/
def aluToMem (m : MemOp) (x : Alu 8) (s : State) : State := (s.store m x.value).flag x.dir

/-- `HL <- fn!(…)` (R9). -/
def aluToHl (x : Alu 16) (s : State) : State := { s with hl := x.value }.flag x.dir

/-- `IX <- fn!(…)` (R9). -/
def aluToIx (x : Alu 16) (s : State) : State := { s with ix := x.value }.flag x.dir

/-- `IY <- fn!(…)` (R9). -/
def aluToIy (x : Alu 16) (s : State) : State := { s with iy := x.value }.flag x.dir

end State

end Sys2Proof.Machine
end

