-- ==== Sys2Proof/Machine/Arith16.lean ====
section
/-! DEFINITION. 16-bit arithmetic (spec/44_arith16.md): one definition per instruction. -/

namespace Sys2Proof.Machine

/-- `ADD HL,ss` (R291). -/
def execAddHlSs (ss : Rp) (s : State) : Result := .next (s.aluToHl (add16 s.hl (s.readRp ss)))

/-- `ADC HL,ss` (R292). -/
def execAdcHlSs (ss : Rp) (s : State) : Result := .next (s.aluToHl (adc16 s.hl (s.readRp ss) s.carry))

/-- `SBC HL,ss` (R293). -/
def execSbcHlSs (ss : Rp) (s : State) : Result := .next (s.aluToHl (sbc16 s.hl (s.readRp ss) s.carry))

/-- `ADD IX,pp` (R294). -/
def execAddIxPp (pp : Rpx) (s : State) : Result := .next (s.aluToIx (add16 s.ix (s.readRpx pp)))

/-- `ADD IY,rr` (R295). -/
def execAddIyRr (rr : Rpy) (s : State) : Result := .next (s.aluToIy (add16 s.iy (s.readRpy rr)))

/-- `INC ss` (R296). -/
def execIncSs (ss : Rp) (s : State) : Result := .next (s.writeRp ss (inc16 (s.readRp ss)))

/-- `DEC ss` (R297). -/
def execDecSs (ss : Rp) (s : State) : Result := .next (s.writeRp ss (dec16 (s.readRp ss)))

/-- `INC IX` (R298). -/
def execIncIx (s : State) : Result := .next { s with ix := inc16 s.ix }

/-- `DEC IX` (R299). -/
def execDecIx (s : State) : Result := .next { s with ix := dec16 s.ix }

/-- `INC IY` (R300). -/
def execIncIy (s : State) : Result := .next { s with iy := inc16 s.iy }

/-- `DEC IY` (R301). -/
def execDecIy (s : State) : Result := .next { s with iy := dec16 s.iy }

end Sys2Proof.Machine
end

