-- ==== Sys2Proof/Machine/Arith8.lean ====
section
/-! DEFINITION. 8-bit arithmetic and logic (spec/43_arith8.md): one definition per instruction, each one ALU function of
Machine/Flags.lean on the accumulator or the operand. Every operand and the carry-in are read in the state before
(R221, R222). -/

namespace Sys2Proof.Machine

/-- `ADD A,r` (R224). -/
def execAddAR (r : R8) (s : State) : Result := .next (s.aluToA (add8 s.a (s.readR8 r)))

/-- `ADD A,n` (R225). -/
def execAddAN (n : Byte) (s : State) : Result := .next (s.aluToA (add8 s.a n))

/-- `ADD A,(HL)` (R226). -/
def execAddAHl (s : State) : Result := .next (s.aluToA (add8 s.a (s.load .hl)))

/-- `ADD A,(IX+d)` (R227). -/
def execAddAIx (d : Byte) (s : State) : Result := .next (s.aluToA (add8 s.a (s.load (.ix d))))

/-- `ADD A,(IY+d)` (R228). -/
def execAddAIy (d : Byte) (s : State) : Result := .next (s.aluToA (add8 s.a (s.load (.iy d))))

/-- `ADC A,r` (R229). -/
def execAdcAR (r : R8) (s : State) : Result := .next (s.aluToA (adc8 s.a (s.readR8 r) s.carry))

/-- `ADC A,n` (R230). -/
def execAdcAN (n : Byte) (s : State) : Result := .next (s.aluToA (adc8 s.a n s.carry))

/-- `ADC A,(HL)` (R231). -/
def execAdcAHl (s : State) : Result := .next (s.aluToA (adc8 s.a (s.load .hl) s.carry))

/-- `ADC A,(IX+d)` (R232). -/
def execAdcAIx (d : Byte) (s : State) : Result := .next (s.aluToA (adc8 s.a (s.load (.ix d)) s.carry))

/-- `ADC A,(IY+d)` (R233). -/
def execAdcAIy (d : Byte) (s : State) : Result := .next (s.aluToA (adc8 s.a (s.load (.iy d)) s.carry))

/-- `SUB r` (R234). -/
def execSubR (r : R8) (s : State) : Result := .next (s.aluToA (sub8 s.a (s.readR8 r)))

/-- `SUB n` (R235). -/
def execSubN (n : Byte) (s : State) : Result := .next (s.aluToA (sub8 s.a n))

/-- `SUB (HL)` (R236). -/
def execSubHl (s : State) : Result := .next (s.aluToA (sub8 s.a (s.load .hl)))

/-- `SUB (IX+d)` (R237). -/
def execSubIx (d : Byte) (s : State) : Result := .next (s.aluToA (sub8 s.a (s.load (.ix d))))

/-- `SUB (IY+d)` (R238). -/
def execSubIy (d : Byte) (s : State) : Result := .next (s.aluToA (sub8 s.a (s.load (.iy d))))

/-- `SBC A,r` (R239). -/
def execSbcAR (r : R8) (s : State) : Result := .next (s.aluToA (sbc8 s.a (s.readR8 r) s.carry))

/-- `SBC A,n` (R240). -/
def execSbcAN (n : Byte) (s : State) : Result := .next (s.aluToA (sbc8 s.a n s.carry))

/-- `SBC A,(HL)` (R241). -/
def execSbcAHl (s : State) : Result := .next (s.aluToA (sbc8 s.a (s.load .hl) s.carry))

/-- `SBC A,(IX+d)` (R242). -/
def execSbcAIx (d : Byte) (s : State) : Result := .next (s.aluToA (sbc8 s.a (s.load (.ix d)) s.carry))

/-- `SBC A,(IY+d)` (R243). -/
def execSbcAIy (d : Byte) (s : State) : Result := .next (s.aluToA (sbc8 s.a (s.load (.iy d)) s.carry))

/-- `AND r` (R244). -/
def execAndR (r : R8) (s : State) : Result := .next (s.aluToA (and8 s.a (s.readR8 r)))

/-- `AND n` (R245). -/
def execAndN (n : Byte) (s : State) : Result := .next (s.aluToA (and8 s.a n))

/-- `AND (HL)` (R246). -/
def execAndHl (s : State) : Result := .next (s.aluToA (and8 s.a (s.load .hl)))

/-- `AND (IX+d)` (R247). -/
def execAndIx (d : Byte) (s : State) : Result := .next (s.aluToA (and8 s.a (s.load (.ix d))))

/-- `AND (IY+d)` (R248). -/
def execAndIy (d : Byte) (s : State) : Result := .next (s.aluToA (and8 s.a (s.load (.iy d))))

/-- `XOR r` (R249). -/
def execXorR (r : R8) (s : State) : Result := .next (s.aluToA (xor8 s.a (s.readR8 r)))

/-- `XOR n` (R250). -/
def execXorN (n : Byte) (s : State) : Result := .next (s.aluToA (xor8 s.a n))

/-- `XOR (HL)` (R251). -/
def execXorHl (s : State) : Result := .next (s.aluToA (xor8 s.a (s.load .hl)))

/-- `XOR (IX+d)` (R252). -/
def execXorIx (d : Byte) (s : State) : Result := .next (s.aluToA (xor8 s.a (s.load (.ix d))))

/-- `XOR (IY+d)` (R253). -/
def execXorIy (d : Byte) (s : State) : Result := .next (s.aluToA (xor8 s.a (s.load (.iy d))))

/-- `OR r` (R254). -/
def execOrR (r : R8) (s : State) : Result := .next (s.aluToA (or8 s.a (s.readR8 r)))

/-- `OR n` (R255). -/
def execOrN (n : Byte) (s : State) : Result := .next (s.aluToA (or8 s.a n))

/-- `OR (HL)` (R256). -/
def execOrHl (s : State) : Result := .next (s.aluToA (or8 s.a (s.load .hl)))

/-- `OR (IX+d)` (R257). -/
def execOrIx (d : Byte) (s : State) : Result := .next (s.aluToA (or8 s.a (s.load (.ix d))))

/-- `OR (IY+d)` (R258). -/
def execOrIy (d : Byte) (s : State) : Result := .next (s.aluToA (or8 s.a (s.load (.iy d))))

/-- `CP r` (R259). -/
def execCpR (r : R8) (s : State) : Result := .next (s.flag (sub8 s.a (s.readR8 r)).dir)

/-- `CP n` (R260). -/
def execCpN (n : Byte) (s : State) : Result := .next (s.flag (sub8 s.a n).dir)

/-- `CP (HL)` (R261). -/
def execCpHl (s : State) : Result := .next (s.flag (sub8 s.a (s.load .hl)).dir)

/-- `CP (IX+d)` (R262). -/
def execCpIx (d : Byte) (s : State) : Result := .next (s.flag (sub8 s.a (s.load (.ix d))).dir)

/-- `CP (IY+d)` (R263). -/
def execCpIy (d : Byte) (s : State) : Result := .next (s.flag (sub8 s.a (s.load (.iy d))).dir)

/-- `INC r` (R264). -/
def execIncR (r : R8) (s : State) : Result := .next (s.aluToR8 r (inc8 (s.readR8 r)))

/-- `INC (HL)` (R265). -/
def execIncMemHl (s : State) : Result := .next (s.aluToMem .hl (inc8 (s.load .hl)))

/-- `INC (IX+d)` (R266). -/
def execIncMemIx (d : Byte) (s : State) : Result := .next (s.aluToMem (.ix d) (inc8 (s.load (.ix d))))

/-- `INC (IY+d)` (R267). -/
def execIncMemIy (d : Byte) (s : State) : Result := .next (s.aluToMem (.iy d) (inc8 (s.load (.iy d))))

/-- `DEC r` (R268). -/
def execDecR (r : R8) (s : State) : Result := .next (s.aluToR8 r (dec8 (s.readR8 r)))

/-- `DEC (HL)` (R269). -/
def execDecMemHl (s : State) : Result := .next (s.aluToMem .hl (dec8 (s.load .hl)))

/-- `DEC (IX+d)` (R270). -/
def execDecMemIx (d : Byte) (s : State) : Result := .next (s.aluToMem (.ix d) (dec8 (s.load (.ix d))))

/-- `DEC (IY+d)` (R271). -/
def execDecMemIy (d : Byte) (s : State) : Result := .next (s.aluToMem (.iy d) (dec8 (s.load (.iy d))))

/-- `CPL` (R272). -/
def execCpl (s : State) : Result := .next ((s.setA (s.a ^^^ 0xFF)).flag { h := .set, n := .set })

/-- `NEG` (R273). -/
def execNeg (s : State) : Result := .next (s.aluToA (sub8 0x00 s.a))

/-- `CCF` (R274). -/
def execCcf (s : State) : Result := .next (s.flag { h := .cond s.carry, n := .reset, c := .cond (!s.carry) })

/-- `SCF` (R275). -/
def execScf (s : State) : Result := .next (s.flag { h := .reset, n := .reset, c := .set })

end Sys2Proof.Machine
end

