-- ==== Sys2Proof/Machine/Control.lean ====
section
/-! DEFINITION. Control transfer, NOP and interrupt enable (spec/46_control.md): one definition per instruction, and the
alternate signal a routine gives the dispatcher (R352). PC already holds the address of the next instruction, so a
condition that is false changes nothing (R350). -/

namespace Sys2Proof.Machine

/-- `JP nn` (R353). -/
def execJpNn (nn : Word) (s : State) : Result := .next (s.setPc nn)

/-- `JP cc,nn` (R354). -/
def execJpCc (cc : Cond) (nn : Word) (s : State) : Result := .next (if s.cond cc then s.setPc nn else s)

/-- `JR e` (R355). -/
def execJr (e : Byte) (s : State) : Result := .next (s.jumpRelative e)

/-- `JR cc,e` (R356). -/
def execJrCc (cc : Cond) (e : Byte) (s : State) : Result := .next (if s.cond cc then s.jumpRelative e else s)

/-- `JP (HL)` (R357). -/
def execJpHl (s : State) : Result := .next (s.setPc s.hl)

/-- `JP (IX)` (R358). -/
def execJpIx (s : State) : Result := .next (s.setPc s.ix)

/-- `JP (IY)` (R359). -/
def execJpIy (s : State) : Result := .next (s.setPc s.iy)

/-- `DJNZ e` (R360). -/
def execDjnz (e : Byte) (s : State) : Result := .next (if s.b - 1 = 0 then s.setB (s.b - 1) else (s.setB (s.b - 1)).jumpRelative e)

/-- `CALL nn` (R361). -/
def execCallNn (nn : Word) (s : State) : Result := .next (s.call nn)

/-- `CALL cc,nn` (R362). -/
def execCallCc (cc : Cond) (nn : Word) (s : State) : Result := .next (if s.cond cc then s.call nn else s)

/-- `RET` (R363). -/
def execRet (s : State) : Result := .next s.popPc

/-- `RET cc` (R364). -/
def execRetCc (cc : Cond) (s : State) : Result := .next (if s.cond cc then s.popPc else s)

/-- `RETI` (R365). -/
def execReti (s : State) : Result := .next s.popPc

/-- `RETN` (R366). -/
def execRetn (s : State) : Result := .next { s.popPc with iff1 := s.iff2 }

/-- `RST p` (R367). -/
def execRst (p : Byte) (s : State) : Result := .next (s.call (zext16 p))

/-- `NOP` (R368). -/
def execNop (s : State) : Result := .next s

/-- `DI` (R369). -/
def execDi (s : State) : Result := .next { s with iff1 := false, iff2 := false }

/-- `EI` (R370). -/
def execEi (s : State) : Result := .next { s with iff1 := true, iff2 := true }

/-- The alternate signal of an execution routine (R352), from the state the routine starts in: true exactly when a
conditional transfer is made; every other routine of the baseline returns false. -/
def alternate (i : Instr) (s : State) : Bool :=
  match i with
  | .jpCc cc _ => s.cond cc
  | .jrCc cc _ => s.cond cc
  | .callCc cc _ => s.cond cc
  | .retCc cc => s.cond cc
  | .djnz _ => s.b - 1 != 0
  | _ => false

end Sys2Proof.Machine
end

