-- ==== Sys2Proof/Machine/Load16.lean ====
section
/-! DEFINITION. The 16-bit loads, the stack and the exchanges (spec/42_load16_exchange.md): one definition per
instruction. An exchange moves the contents of both cells (R183). -/

namespace Sys2Proof.Machine

/-- `LD dd,nn` (R184). -/
def execLdDdNn (dd : Rp) (nn : Word) (s : State) : Result := .next (s.writeRp dd nn)

/-- `LD IX,nn` (R185). -/
def execLdIxNn (nn : Word) (s : State) : Result := .next { s with ix := nn }

/-- `LD IY,nn` (R186). -/
def execLdIyNn (nn : Word) (s : State) : Result := .next { s with iy := nn }

/-- `LD HL,(nn)` (R187). -/
def execLdHlMem (nn : Word) (s : State) : Result := .next { s with hl := s.memRead16 nn }

/-- `LD dd,(nn)` (R188). -/
def execLdDdMem (dd : Rp) (nn : Word) (s : State) : Result := .next (s.writeRp dd (s.memRead16 nn))

/-- `LD IX,(nn)` (R189). -/
def execLdIxMem (nn : Word) (s : State) : Result := .next { s with ix := s.memRead16 nn }

/-- `LD IY,(nn)` (R190). -/
def execLdIyMem (nn : Word) (s : State) : Result := .next { s with iy := s.memRead16 nn }

/-- `LD (nn),HL` (R191). -/
def execLdMemHl (nn : Word) (s : State) : Result := .next (s.memWrite16 nn s.hl)

/-- `LD (nn),dd` (R192). -/
def execLdMemDd (nn : Word) (dd : Rp) (s : State) : Result := .next (s.memWrite16 nn (s.readRp dd))

/-- `LD (nn),IX` (R193). -/
def execLdMemIx (nn : Word) (s : State) : Result := .next (s.memWrite16 nn s.ix)

/-- `LD (nn),IY` (R194). -/
def execLdMemIy (nn : Word) (s : State) : Result := .next (s.memWrite16 nn s.iy)

/-- `LD SP,HL` (R195). -/
def execLdSpHl (s : State) : Result := .next { s with sp := s.hl }

/-- `LD SP,IX` (R196). -/
def execLdSpIx (s : State) : Result := .next { s with sp := s.ix }

/-- `LD SP,IY` (R197). -/
def execLdSpIy (s : State) : Result := .next { s with sp := s.iy }

/-- `PUSH qq` (R198). -/
def execPushQq (qq : Rp2) (s : State) : Result := .next (s.push (s.readRp2 qq))

/-- `PUSH IX` (R199). -/
def execPushIx (s : State) : Result := .next (s.push s.ix)

/-- `PUSH IY` (R200). -/
def execPushIy (s : State) : Result := .next (s.push s.iy)

/-- `POP qq` (R201). -/
def execPopQq (qq : Rp2) (s : State) : Result := .next (s.pop.2.writeRp2 qq s.pop.1)

/-- `POP IX` (R202). -/
def execPopIx (s : State) : Result := .next { s.pop.2 with ix := s.pop.1 }

/-- `POP IY` (R203). -/
def execPopIy (s : State) : Result := .next { s.pop.2 with iy := s.pop.1 }

/-- `EX DE,HL` (R204). -/
def execExDeHl (s : State) : Result := .next { s with de := s.hl, hl := s.de }

/-- `EX AF,AF'` (R205). -/
def execExAfAf (s : State) : Result := .next { s with af := s.af', af' := s.af }

/-- `EXX` (R206). -/
def execExx (s : State) : Result := .next { s with bc := s.bc', bc' := s.bc, de := s.de', de' := s.de, hl := s.hl', hl' := s.hl }

/-- `EX (SP),HL` (R207). -/
def execExSpHl (s : State) : Result := .next { (s.exchangeTop s.hl).2 with hl := (s.exchangeTop s.hl).1 }

/-- `EX (SP),IX` (R208). -/
def execExSpIx (s : State) : Result := .next { (s.exchangeTop s.ix).2 with ix := (s.exchangeTop s.ix).1 }

/-- `EX (SP),IY` (R209). -/
def execExSpIy (s : State) : Result := .next { (s.exchangeTop s.iy).2 with iy := (s.exchangeTop s.iy).1 }

end Sys2Proof.Machine
end

