-- ==== Sys2Proof/Machine/Load8.lean ====
section
/-! DEFINITION. The 8-bit loads (spec/41_load8.md): one definition per instruction. Every routine runs with PC already
at the address of the next instruction (spec/30_encoding.md R82). -/

namespace Sys2Proof.Machine

/-- What LD A,I and LD A,R do with the value of the special register (R171, R172): A takes it; S and Z come from it,
H and N are reset, P/V takes IFF2, C is kept. -/
def State.loadSpecial (v : Byte) (s : State) : State :=
  (s.setA v).flag { s := .cond (v.getLsbD 7), z := .cond (v == 0), h := .reset, pv := .cond s.iff2, n := .reset, c := .keep }

/-- `LD r,r'` (R154). -/
def execLdRR (dst : R8) (src : R8) (s : State) : Result := .next (s.writeR8 dst (s.readR8 src))

/-- `LD r,n` (R155). -/
def execLdRN (r : R8) (n : Byte) (s : State) : Result := .next (s.writeR8 r n)

/-- `LD r,(HL)` (R156). -/
def execLdRHl (r : R8) (s : State) : Result := .next (s.writeR8 r (s.load .hl))

/-- `LD (HL),r` (R157). -/
def execLdHlR (r : R8) (s : State) : Result := .next (s.store .hl (s.readR8 r))

/-- `LD (HL),n` (R158). -/
def execLdHlN (n : Byte) (s : State) : Result := .next (s.store .hl n)

/-- `LD r,(IX+d)` (R159). -/
def execLdRIx (r : R8) (d : Byte) (s : State) : Result := .next (s.writeR8 r (s.load (.ix d)))

/-- `LD r,(IY+d)` (R160). -/
def execLdRIy (r : R8) (d : Byte) (s : State) : Result := .next (s.writeR8 r (s.load (.iy d)))

/-- `LD (IX+d),r` (R161). -/
def execLdIxR (d : Byte) (r : R8) (s : State) : Result := .next (s.store (.ix d) (s.readR8 r))

/-- `LD (IY+d),r` (R162). -/
def execLdIyR (d : Byte) (r : R8) (s : State) : Result := .next (s.store (.iy d) (s.readR8 r))

/-- `LD (IX+d),n` (R163). -/
def execLdIxN (d : Byte) (n : Byte) (s : State) : Result := .next (s.store (.ix d) n)

/-- `LD (IY+d),n` (R164). -/
def execLdIyN (d : Byte) (n : Byte) (s : State) : Result := .next (s.store (.iy d) n)

/-- `LD A,(BC)` (R165). -/
def execLdABc (s : State) : Result := .next (s.setA (s.load .bc))

/-- `LD A,(DE)` (R166). -/
def execLdADe (s : State) : Result := .next (s.setA (s.load .de))

/-- `LD A,(nn)` (R167). -/
def execLdANn (nn : Word) (s : State) : Result := .next (s.setA (s.load (.abs nn)))

/-- `LD (BC),A` (R168). -/
def execLdBcA (s : State) : Result := .next (s.store .bc s.a)

/-- `LD (DE),A` (R169). -/
def execLdDeA (s : State) : Result := .next (s.store .de s.a)

/-- `LD (nn),A` (R170). -/
def execLdNnA (nn : Word) (s : State) : Result := .next (s.store (.abs nn) s.a)

/-- `LD A,I` (R171). -/
def execLdAI (s : State) : Result := .next (s.loadSpecial s.i)

/-- `LD A,R` (R172). -/
def execLdAR (s : State) : Result := .next (s.loadSpecial s.r)

/-- `LD I,A` (R173). -/
def execLdIA (s : State) : Result := .next (s.setI s.a)

/-- `LD R,A` (R174). -/
def execLdRA (s : State) : Result := .next (s.setR s.a)

end Sys2Proof.Machine
end

