-- ==== Sys2Proof/Machine/Rotate.lean ====
section
/-! DEFINITION. Rotates and shifts (spec/45_rotate_shift.md): one definition per instruction. -/

namespace Sys2Proof.Machine

/-- What RLCA, RRCA, RLA and RRA do with their function's result (R311): A takes the value, and S, Z and P/V are
kept. -/
def State.rotateA (x : Alu 8) (s : State) : State := (s.setA x.value).flag x.dir.keepSZPv

/-- `RLCA` (R312). -/
def execRlca (s : State) : Result := .next (s.rotateA (rlc8 s.a))

/-- `RRCA` (R313). -/
def execRrca (s : State) : Result := .next (s.rotateA (rrc8 s.a))

/-- `RLA` (R314). -/
def execRla (s : State) : Result := .next (s.rotateA (rl8 s.a s.carry))

/-- `RRA` (R315). -/
def execRra (s : State) : Result := .next (s.rotateA (rr8 s.a s.carry))

/-- `RLC r` (R316). -/
def execRlcR (r : R8) (s : State) : Result := .next (s.aluToR8 r (rlc8 (s.readR8 r)))

/-- `RLC (HL)` (R317). -/
def execRlcHl (s : State) : Result := .next (s.aluToMem .hl (rlc8 (s.load .hl)))

/-- `RLC (IX+d)` (R318). -/
def execRlcIx (d : Byte) (s : State) : Result := .next (s.aluToMem (.ix d) (rlc8 (s.load (.ix d))))

/-- `RLC (IY+d)` (R319). -/
def execRlcIy (d : Byte) (s : State) : Result := .next (s.aluToMem (.iy d) (rlc8 (s.load (.iy d))))

/-- `RRC r` (R320). -/
def execRrcR (r : R8) (s : State) : Result := .next (s.aluToR8 r (rrc8 (s.readR8 r)))

/-- `RRC (HL)` (R321). -/
def execRrcHl (s : State) : Result := .next (s.aluToMem .hl (rrc8 (s.load .hl)))

/-- `RRC (IX+d)` (R322). -/
def execRrcIx (d : Byte) (s : State) : Result := .next (s.aluToMem (.ix d) (rrc8 (s.load (.ix d))))

/-- `RRC (IY+d)` (R323). -/
def execRrcIy (d : Byte) (s : State) : Result := .next (s.aluToMem (.iy d) (rrc8 (s.load (.iy d))))

/-- `RL r` (R324). -/
def execRlR (r : R8) (s : State) : Result := .next (s.aluToR8 r (rl8 (s.readR8 r) s.carry))

/-- `RL (HL)` (R325). -/
def execRlHl (s : State) : Result := .next (s.aluToMem .hl (rl8 (s.load .hl) s.carry))

/-- `RL (IX+d)` (R326). -/
def execRlIx (d : Byte) (s : State) : Result := .next (s.aluToMem (.ix d) (rl8 (s.load (.ix d)) s.carry))

/-- `RL (IY+d)` (R327). -/
def execRlIy (d : Byte) (s : State) : Result := .next (s.aluToMem (.iy d) (rl8 (s.load (.iy d)) s.carry))

/-- `RR r` (R328). -/
def execRrR (r : R8) (s : State) : Result := .next (s.aluToR8 r (rr8 (s.readR8 r) s.carry))

/-- `RR (HL)` (R329). -/
def execRrHl (s : State) : Result := .next (s.aluToMem .hl (rr8 (s.load .hl) s.carry))

/-- `RR (IX+d)` (R330). -/
def execRrIx (d : Byte) (s : State) : Result := .next (s.aluToMem (.ix d) (rr8 (s.load (.ix d)) s.carry))

/-- `RR (IY+d)` (R331). -/
def execRrIy (d : Byte) (s : State) : Result := .next (s.aluToMem (.iy d) (rr8 (s.load (.iy d)) s.carry))

/-- `SLA r` (R332). -/
def execSlaR (r : R8) (s : State) : Result := .next (s.aluToR8 r (sla8 (s.readR8 r)))

/-- `SLA (HL)` (R333). -/
def execSlaHl (s : State) : Result := .next (s.aluToMem .hl (sla8 (s.load .hl)))

/-- `SLA (IX+d)` (R334). -/
def execSlaIx (d : Byte) (s : State) : Result := .next (s.aluToMem (.ix d) (sla8 (s.load (.ix d))))

/-- `SLA (IY+d)` (R335). -/
def execSlaIy (d : Byte) (s : State) : Result := .next (s.aluToMem (.iy d) (sla8 (s.load (.iy d))))

/-- `SRA r` (R336). -/
def execSraR (r : R8) (s : State) : Result := .next (s.aluToR8 r (sra8 (s.readR8 r)))

/-- `SRA (HL)` (R337). -/
def execSraHl (s : State) : Result := .next (s.aluToMem .hl (sra8 (s.load .hl)))

/-- `SRA (IX+d)` (R338). -/
def execSraIx (d : Byte) (s : State) : Result := .next (s.aluToMem (.ix d) (sra8 (s.load (.ix d))))

/-- `SRA (IY+d)` (R339). -/
def execSraIy (d : Byte) (s : State) : Result := .next (s.aluToMem (.iy d) (sra8 (s.load (.iy d))))

/-- `SRL r` (R340). -/
def execSrlR (r : R8) (s : State) : Result := .next (s.aluToR8 r (srl8 (s.readR8 r)))

/-- `SRL (HL)` (R341). -/
def execSrlHl (s : State) : Result := .next (s.aluToMem .hl (srl8 (s.load .hl)))

/-- `SRL (IX+d)` (R342). -/
def execSrlIx (d : Byte) (s : State) : Result := .next (s.aluToMem (.ix d) (srl8 (s.load (.ix d))))

/-- `SRL (IY+d)` (R343). -/
def execSrlIy (d : Byte) (s : State) : Result := .next (s.aluToMem (.iy d) (srl8 (s.load (.iy d))))

end Sys2Proof.Machine
end

