-- ==== Sys2Proof/Machine/Dispatcher.lean ====
section
/-! DEFINITION. The dispatcher: Fetch, Match, Extract, Execute, Account-cycles (spec/30_encoding.md R79 to R83). The
catalog is an argument (R78), with any predicates and any execution routines (R70, R76); Machine/Step.lean runs it with
the baseline. -/

namespace Sys2Proof.Machine

/-- An execution routine applied to its extracted list x (R76): any function from the register file and the backend's
memory, with PC already after the instruction (R82), to a next state and the alternate-condition signal. It may refuse,
and cannot fault (R384). -/
abbrev Routine := State → Except Refusal (State × Bool)

/-- The execution routine of a baseline instruction: its meaning, and its signal (R352). -/
def routineOf (i : Instr) : Routine := fun s =>
  match exec i s with
  | .next t => .ok (t, alternate i s)
  | .fault f => .error (.routineFault f)
  | .refused r => .error r

/-- The baseline catalog as the dispatcher runs it: the default of the catalog argument (R78, R5 item P1). -/
def baselineCatalog : Catalog Routine := baseline.map (Descriptor.map routineOf)

/-- What a completed run of the dispatcher reports: the next state, the cycle count it returns (R83), and how many
instruction bytes it fetched (R81). The core keeps neither number (R33). -/
structure Report where
  state   : State
  cycles  : Nat
  fetched : Nat
  deriving DecidableEq, Repr

/-- The n bytes at rising addresses from `addr`, which wraps (R26, R81). -/
def State.bytesFrom : Nat → Word → State → List Byte
  | 0, _, _ => []
  | n + 1, addr, s => s.memRead8 addr :: State.bytesFrom n (addr + 1) s

/-- Every byte the catalog could need at PC. How many of them are fetched is `fetchCount`'s answer (R81). -/
def State.window (cat : Catalog α) (s : State) : List Byte := s.bytesFrom (Catalog.maxLength cat) s.pc

/-- `pc <- (pc0 + n) mod 65536` (R82). -/
def State.advance (n : Nat) (s : State) : State := s.setPc (s.pc + BitVec.ofNat 16 n)

/-- One run of the dispatcher with a given catalog on the bytes at PC (R79). The catalog is assumed well formed (R382),
and the bytes as many as it can need. -/
def dispatchOn (cat : Catalog Routine) (bytes : List Byte) (s : State) : Host.Outcome Report Fault Refusal :=
  match selectDescriptor cat bytes with
  | none => raiseIllegalOpcode s.pc (bytes.take (fetchCount cat bytes))
  | some d =>
    match d.routine (extractAll d.rules bytes) with
    | none => .refused (.undefinedSelector d.mnemonic)
    | some r =>
      match r (s.advance d.length) with
      | .ok (t, alt) => .next { state := t, cycles := d.cycles alt, fetched := fetchCount cat bytes }
      | .error e => .refused e

/-- One run of the dispatcher with a given catalog (R79). -/
def dispatchWith (cat : Catalog Routine) (s : State) : Host.Outcome Report Fault Refusal :=
  dispatchOn cat (s.window cat) s

/-- The state a run of the dispatcher leaves, without the counts it reports. -/
def stateOf : Host.Outcome Report Fault Refusal → Result
  | .next r => .next r.state
  | .fault r => .fault r
  | .refused r => .refused r

/-- Write a list of bytes at rising addresses (R51). -/
def State.writeBytes : List Byte → Word → State → State
  | [], _, s => s
  | b :: bs, addr, s => State.writeBytes bs (addr + 1) (s.memWrite8 addr b)

end Sys2Proof.Machine
end

