-- ==== Sys2Proof/Machine/Step.lean ====
section
/-! DEFINITION. One step of the hardware: one run of the dispatcher with the baseline catalog (spec/30_encoding.md
R79), and the placing of an instruction where the next step fetches it. -/

namespace Sys2Proof.Machine

/-- One step (R79): the dispatcher with the baseline catalog on the four bytes at PC, as many as its longest descriptor
has (R5 item P14). `step_eq_dispatchWith` in Laws/Step.lean says that this is `dispatchWith baselineCatalog`. The cycle count is
the dispatcher's report and no part of the state (R33, R406). -/
def step (s : State) : Host.Outcome State Fault Refusal := stateOf (dispatchOn baselineCatalog (s.bytesFrom 4 s.pc) s)

/-- The instruction of a table word stored at PC, where the next step fetches (R81). It stands for the load of a
program by the owner of the memory (R391, R401); log entry 3. -/
def State.withFetchWord (s : State) (nbits w : Nat) : State := s.writeBytes (tableWordBytes nbits w) s.pc

end Sys2Proof.Machine
end

