-- ==== Sys2Proof/Machine/Caller.lean ====
section
/-! DEFINITION. The caller's side of the interface (spec/10_state.md R34; spec/60_exceptions.md R385, R391): read and
write access to every named register, both flip-flops and memory between two steps. What a caller does with it
(interrupt acceptance among it) is OPEN, the parameter `HostPolicy`; doing nothing is the model of the core alone. A run
takes the catalog and the policy as its parameters. -/

namespace Sys2Proof.Machine

/-- Every cell of R20, a pair with byte views by its two views. -/
inductive Cell where
  | a | f | b | c | d | e | h | l | i | r
  | af' | bc' | de' | hl' | ix | iy | sp | pc
  | iff1 | iff2
  deriving DecidableEq, Repr

/-- What a cell holds, as a number: a byte, a word, or 0 or 1. -/
def State.cell (s : State) : Cell → Nat
  | .a => s.a.toNat | .f => s.f.toNat | .b => s.b.toNat | .c => s.c.toNat | .d => s.d.toNat | .e => s.e.toNat
  | .h => s.h.toNat | .l => s.l.toNat | .i => s.i.toNat | .r => s.r.toNat
  | .af' => s.af'.toNat | .bc' => s.bc'.toNat | .de' => s.de'.toNat | .hl' => s.hl'.toNat
  | .ix => s.ix.toNat | .iy => s.iy.toNat | .sp => s.sp.toNat | .pc => s.pc.toNat
  | .iff1 => s.iff1.toNat | .iff2 => s.iff2.toNat

/-- Write a cell with the low bits of a number, as many as the cell is wide (R7, R34). -/
def State.setCell (cell : Cell) (v : Nat) (s : State) : State :=
  match cell with
  | .a => s.setA (BitVec.ofNat 8 v) | .f => s.setF (BitVec.ofNat 8 v)
  | .b => s.setB (BitVec.ofNat 8 v) | .c => s.setC (BitVec.ofNat 8 v)
  | .d => s.setD (BitVec.ofNat 8 v) | .e => s.setE (BitVec.ofNat 8 v)
  | .h => s.setH (BitVec.ofNat 8 v) | .l => s.setL (BitVec.ofNat 8 v)
  | .i => s.setI (BitVec.ofNat 8 v) | .r => s.setR (BitVec.ofNat 8 v)
  | .af' => { s with af' := BitVec.ofNat 16 v } | .bc' => { s with bc' := BitVec.ofNat 16 v }
  | .de' => { s with de' := BitVec.ofNat 16 v } | .hl' => { s with hl' := BitVec.ofNat 16 v }
  | .ix => { s with ix := BitVec.ofNat 16 v } | .iy => { s with iy := BitVec.ofNat 16 v }
  | .sp => { s with sp := BitVec.ofNat 16 v } | .pc => { s with pc := BitVec.ofNat 16 v }
  | .iff1 => { s with iff1 := v % 2 == 1 } | .iff2 => { s with iff2 := v % 2 == 1 }

/-- How many values a cell can hold: 2 to the power of its width (R20). -/
def Cell.size : Cell → Nat
  | .a | .f | .b | .c | .d | .e | .h | .l | .i | .r => 256
  | .af' | .bc' | .de' | .hl' | .ix | .iy | .sp | .pc => 65536
  | .iff1 | .iff2 => 2

/-- One act of the caller between two steps (R34, R59). -/
inductive CallerAction where
  | writeCell (cell : Cell) (v : Nat)
  | writeByte (addr : Word) (v : Byte)
  deriving DecidableEq, Repr

/-- Carry out one act. A memory write is a `set` call at that point of the order (R59). -/
def CallerAction.apply : CallerAction → State → State
  | .writeCell cell v, s => s.setCell cell v
  | .writeByte addr v, s => s.memWrite8 addr v

/-- Carry out a list of acts in order. -/
def applyActions : List CallerAction → State → State
  | [], s => s
  | x :: xs, s => applyActions xs (x.apply s)

/-- A `HostPolicy` (R391): what the caller does before the next step, given the reports of the steps so far, newest first,
and the state it sees. It answers a list of acts to carry out, or `none` to stop. -/
abbrev HostPolicy := List Report → State → Option (List CallerAction)

/-- The identity policy, the model of the core alone (R391): nothing happens between steps and the caller never stops. -/
def HostPolicy.idle : HostPolicy := fun _ _ => some []

/-- A run under a catalog and a policy (R391): `Step` iterated until a fault or until the caller stops, for k steps at
most (R407). -/
def runWithCaller (cat : Catalog Routine) (policy : HostPolicy) : Nat → List Report → State → Result
  | 0, _, s => .next s
  | k + 1, reports, s =>
    match policy reports s with
    | none => .next s
    | some acts =>
      match dispatchWith cat (applyActions acts s) with
      | .next r => runWithCaller cat policy k (r :: reports) r.state
      | .fault f => .fault f
      | .refused r => .refused r

end Sys2Proof.Machine
end

