-- ==== Sys2Proof/Safety.lean ====
section
/-! DEFINITION. The terms the statements use: the invariant of the machine, what counts as a safe run, the six flags
read as a record, the frame of an instruction (which cells and which bytes it may change), and the operand forms an
instruction family has. Nothing here is part of the machine. -/

namespace Sys2Proof

/-- The view an 8-bit register selector names, as a cell (R84). -/
def R8.cell : R8 → Machine.Cell
  | .b => .b | .c => .c | .d => .d | .e => .e | .h => .h | .l => .l | .a => .a

/-- The cells of a pair of `rp` (R85). -/
def Rp.cells : Rp → List Machine.Cell
  | .bc => [.b, .c] | .de => [.d, .e] | .hl => [.h, .l] | .sp => [.sp]

/-- The cells of a pair of `rp2` (R86). -/
def Rp2.cells : Rp2 → List Machine.Cell
  | .bc => [.b, .c] | .de => [.d, .e] | .hl => [.h, .l] | .af => [.a, .f]

namespace Machine

/-! ## The invariant and safe runs -/

/-- The one relation between a state's fields: memory is in its canonical form. -/
def State.Inv (s : State) : Prop := s.mem.wf = true

/-- Some descriptor of the baseline matches at PC, so the next step does not fault (R80, R93). -/
def State.Legal (s : State) : Prop := ∃ d, selectDescriptor baseline (s.window baseline) = some d

/-- A run of k steps that meets no fault. -/
def SafeRun (k : Nat) (s : State) : Prop := ∃ t, core.run k s = .next t

/-! ## Flags -/

/-- The six flags of F by name (R28, R110). -/
structure FlagValues where
  s  : Bool
  z  : Bool
  h  : Bool
  pv : Bool
  n  : Bool
  c  : Bool
  deriving DecidableEq, Repr

/-- The flags of a byte, at the positions of R28. -/
def flagValues (F : Byte) : FlagValues :=
  { s := F.getLsbD 7, z := F.getLsbD 6, h := F.getLsbD 4, pv := F.getLsbD 2, n := F.getLsbD 1, c := F.getLsbD 0 }

/-- The flags of a state. -/
def State.flags (s : State) : FlagValues := flagValues s.f

/-- Bits 5 and 3 of F, which hold no flag (R28, R115). -/
def State.spareBits (s : State) : Byte := s.f &&& 0x28

/-- Which flags make a condition true (R351). -/
def condHolds : Cond → FlagValues → Bool
  | .nz, fl => !fl.z
  | .z, fl => fl.z
  | .nc, fl => !fl.c
  | .c, fl => fl.c
  | .po, fl => !fl.pv
  | .pe, fl => fl.pv
  | .p, fl => !fl.s
  | .m, fl => fl.s

/-- The flags every rotate and shift gives for a result and the bit moved out (R116). -/
def shiftFlags (result : Nat) (out : Bool) : FlagValues :=
  { s := decide (128 ≤ result), z := decide (result = 0), h := false, pv := parity (BitVec.ofNat 8 result), n := false,
    c := out }

/-! ## Frames -/

/-- Every cell outside the list holds what it held. PC is a cell too: an execution routine that is no transfer leaves
it where the dispatcher put it (R82). -/
def UnchangedExcept (cells : List Cell) (s t : State) : Prop := ∀ x, x ∉ cells → t.cell x = s.cell x

/-- Every byte of memory outside the list reads as it read. -/
def MemoryUnchangedExcept (addrs : List Word) (s t : State) : Prop := ∀ x, x ∉ addrs → t.memRead8 x = s.memRead8 x

/-! ## Operand forms -/

/-- The five operand forms of an accumulator instruction: a register, an immediate byte, the byte at HL, and the bytes
at IX and IY plus a displacement. `P` gets each instruction with what its operand reads. -/
def AccumulatorForms (reg : R8 → Instr) (imm : Byte → Instr) (hl : Instr) (ix iy : Byte → Instr)
    (P : Instr → (State → Byte) → Prop) : Prop :=
  (∀ r, P (reg r) (State.readR8 r)) ∧ (∀ n, P (imm n) fun _ => n) ∧ P hl (fun s => s.memRead8 s.hl) ∧
    (∀ d, P (ix d) fun s => s.memRead8 (s.ix + sext16 d)) ∧ ∀ d, P (iy d) fun s => s.memRead8 (s.iy + sext16 d)

/-- What an accumulator instruction answers: a next state with the given value in A and the given flags, nothing else
changed. -/
def AccumulatorResult (i : Instr) (s : State) (value : Nat) (fl : FlagValues) : Prop :=
  ∃ t, exec i s = .next t ∧ t.a.toNat = value ∧ t.flags = fl ∧ t.spareBits = s.spareBits ∧
    UnchangedExcept [.a, .f] s t ∧ MemoryUnchangedExcept [] s t

/-- What an instruction answers that only computes flags. -/
def FlagsOnlyResult (i : Instr) (s : State) (fl : FlagValues) : Prop :=
  ∃ t, exec i s = .next t ∧ t.flags = fl ∧ t.spareBits = s.spareBits ∧ UnchangedExcept [.f] s t ∧
    MemoryUnchangedExcept [] s t

/-- Where a read-modify-write instruction works: a register or a byte of memory. -/
inductive Place where
  | reg (r : R8)
  | mem (m : MemOp)
  deriving DecidableEq, Repr

/-- What a place holds. -/
def Place.read : Place → State → Byte
  | .reg r, s => s.readR8 r
  | .mem m, s => s.memRead8 (m.ea s)

/-- A place of the state before holds a value in the state after. A memory place keeps the address it had before. -/
def Place.holds (p : Place) (s t : State) (value : Nat) : Prop :=
  match p with
  | .reg r => (t.readR8 r).toNat = value
  | .mem m => (t.memRead8 (m.ea s)).toNat = value

/-- The cells a write to a place changes. -/
def Place.cells : Place → List Cell
  | .reg r => [r.cell]
  | .mem _ => []

/-- The addresses a write to a place stores to. -/
def Place.addresses : Place → State → List Word
  | .reg _, _ => []
  | .mem m, s => [m.ea s]

/-- The four operand forms of INC, DEC, the rotates and the shifts. -/
def PlaceForms (reg : R8 → Instr) (hl : Instr) (ix iy : Byte → Instr) (P : Instr → Place → Prop) : Prop :=
  (∀ r, P (reg r) (.reg r)) ∧ P hl (.mem .hl) ∧ (∀ d, P (ix d) (.mem (.ix d))) ∧ ∀ d, P (iy d) (.mem (.iy d))

/-- What a read-modify-write instruction answers: a next state with the given value in the place and the given flags,
nothing else changed. -/
def PlaceResult (i : Instr) (p : Place) (s : State) (value : Nat) (fl : FlagValues) : Prop :=
  ∃ t, exec i s = .next t ∧ p.holds s t value ∧ t.flags = fl ∧ t.spareBits = s.spareBits ∧
    UnchangedExcept (.f :: p.cells) s t ∧ MemoryUnchangedExcept (p.addresses s) s t

/-- What a load of a register answers: a next state in which only the given cells changed. -/
def LoadResult (i : Instr) (s : State) (cells : List Cell) (Q : State → Prop) : Prop :=
  ∃ t, exec i s = .next t ∧ Q t ∧ UnchangedExcept cells s t ∧ MemoryUnchangedExcept [] s t

/-- What a store of one byte answers: a next state in which only that byte changed. -/
def StoreResult (i : Instr) (s : State) (addr : Word) (v : Byte) : Prop :=
  ∃ t, exec i s = .next t ∧ t.memRead8 addr = v ∧ UnchangedExcept [] s t ∧ MemoryUnchangedExcept [addr] s t

/-- What a store of a word answers: the low byte at the address, the high byte at the next one (R53). -/
def StoreWordResult (i : Instr) (s : State) (addr w : Word) : Prop :=
  ∃ t, exec i s = .next t ∧ t.memRead8 addr = loByte w ∧ t.memRead8 (addr + 1) = hiByte w ∧
    UnchangedExcept [] s t ∧ MemoryUnchangedExcept [addr, addr + 1] s t

/-- The word at an address, built from its two bytes (R53). -/
def State.wordAt (s : State) (addr : Word) : Word := wordOf (s.memRead8 (addr + 1)) (s.memRead8 addr)

/-- The word lies on top of a stack that has just grown by two bytes: the high byte at the old SP - 1, the low byte at
SP - 2, where SP is now (R181). -/
def PushedOnto (s t : State) (w : Word) : Prop :=
  t.sp = s.sp - 2 ∧ t.memRead8 (s.sp - 1) = hiByte w ∧ t.memRead8 (s.sp - 2) = loByte w ∧
    MemoryUnchangedExcept [s.sp - 1, s.sp - 2] s t

end Machine

end Sys2Proof
end

