-- ==== Sys2Proof/Certificates/Slice0/Obligations.lean ====
section
/-! DEFINITION. The statements for the provers. Most rest on values the spec marks as its own decisions (opcode values,
flag positions, byte order, stack discipline): each docstring names the rule or the decision D<n> it formalises. A
statement without hypotheses holds in every state. -/

open Sys2Proof Sys2Proof.Machine

/-! ## The encoding and the dispatch mechanism -/

/-- Decoding an encoded instruction gives it back with every operand, whatever bytes follow (spec/opcode_table.json,
decisions D9 and D10). -/
def Obligations.DecodeOfEncode : Prop :=
  ∀ (i : Instr) (rest : List Byte), i.wf = true → decode (encode i ++ rest) = .ok (i, rest)

/-- The other direction: whatever decodes is the encoding of a well-formed instruction, so every word has one meaning
and no bit of it is ignored (R98, R99). -/
def Obligations.EncodeOfDecode : Prop :=
  ∀ (i : Instr) (bytes rest : List Byte), decode bytes = .ok (i, rest) → i.wf = true ∧ encode i ++ rest = bytes

/-- Words written out from the table's bit patterns: `LD B,C` is 01 000 001, `LD A,(IX-2)` is DD 01 111 110 FE,
`ADD HL,SP` is 00 11 1001, `ADC HL,DE` is ED 01 01 1010, `RRC (IY+5)` is FD CB 05 00001110, `JR NC,-4` is 001 10 000
FC, `RST 28H` is 11 101 111, `LD (6000H),SP` is ED 01 11 0011 00 60. -/
def Obligations.WrittenWordsDecode : Prop :=
  decode [0b01000001] = .ok (.ldRR .b .c, []) ∧
  decode [0xDD, 0b01111110, 0xFE] = .ok (.ldRIx .a 0xFE, []) ∧
  decode [0b00111001] = .ok (.addHlSs .sp, []) ∧
  decode [0xED, 0b01011010] = .ok (.adcHlSs .de, []) ∧
  decode [0xFD, 0xCB, 0x05, 0b00001110] = .ok (.rrcIy 0x05, []) ∧
  decode [0b00110000, 0xFC] = .ok (.jrCc .nc 0xFC, []) ∧
  decode [0b11101111] = .ok (.rst 0x28, []) ∧
  decode [0xED, 0b01110011, 0x00, 0x60] = .ok (.ldMemDd 0x6000 .sp, [])

/-- R74, whole: every byte that matches a rule lies in its range pair; for a well-formed rule without predicate both
ends match; the pair ignores the predicate; not every byte in the range need match: a byte with a wrong fixed bit does not,
and of the range 0x06 to 0x3E of the rule (0x06, 0x38) only eight bytes match. -/
def Obligations.RangePairBoundsMatches : Prop :=
  (∀ (r : ByteRule) (b : Byte), r.matchesByte b = true →
    r.range.1.toNat ≤ b.toNat ∧ b.toNat ≤ r.range.2.toNat) ∧
  (∀ r : ByteRule, r.wf = true → r.pred = none →
    r.matchesByte r.range.1 = true ∧ r.matchesByte r.range.2 = true) ∧
  (∀ (r : ByteRule) (p : Option BytePred), ({ r with pred := p } : ByteRule).range = r.range) ∧
  (∀ (r : ByteRule) (b : Byte), b &&& ~~~r.varmask ≠ r.const → r.matchesByte b = false) ∧
  (∀ p : Option BytePred, (field 0x06 0x38 p).range = (0x06, 0x3E) ∧
    ∀ b, (field 0x06 0x38 p).matchesByte b = true → b ∈ [0x06, 0x0E, 0x16, 0x1E, 0x26, 0x2E, 0x36, 0x3E]) ∧
  ((List.range 256).filter fun n => (field 0x06 0x38 none).matchesByte (BitVec.ofNat 8 n)).length = 8

/-- R71, and R72 (read by the spec from R71): a byte matches a rule when the fixed bits are right and the predicate, if
any, accepts the variable bits in place. So a well-formed rule without predicate matches some byte; a rule with a fixed bit
inside its variable mask matches none; and only such a rule, or one whose predicate refuses every value of the variable
bits, matches none. Every rule of the baseline is well formed. -/
def Obligations.IllFormedRuleMatchesNothing : Prop :=
  (∀ (r : ByteRule) (b : Byte), r.matchesByte b = true ↔
    b &&& ~~~r.varmask = r.const ∧ ∀ p, r.pred = some p → p (b &&& r.varmask) = true) ∧
  (∀ r : ByteRule, r.wf = true → r.pred = none → ∃ b, r.matchesByte b = true) ∧
  (∀ r : ByteRule, (∀ b, r.matchesByte b = false) ↔
    (r.wf = false ∨ ∃ p, r.pred = some p ∧ ∀ v : Byte, v &&& ~~~r.varmask = 0 → p v = false)) ∧
  ∀ d ∈ baseline, ∀ r ∈ d.rules, r.wf = true

/-- R77 (its last two checks are the spec's own additions): exactly which descriptors are malformed. R382 and R391: catalog
build gives the catalog when none is and reports MalformedDescriptor when one is. R77, R381 and R384 with decisions D14
and D30: the only fault a step reports, with any catalog, is IllegalOpcode; what a step does with a malformed catalog the
spec leaves open, and the model runs it alike (log entry 7). -/
def Obligations.MalformedDescriptorChecks : Prop :=
  (∀ d : Descriptor Routine, d.wf = false ↔
    (d.rules = [] ∨ d.cost.length ≠ d.rules.length ∨ (∃ t, d.costAlt = some t ∧ t.length ≠ d.rules.length) ∨
      (∃ r ∈ d.rules, r.const &&& r.varmask ≠ 0) ∨ d.cost.sum < 1 ∨ ∃ t, d.costAlt = some t ∧ t.sum < 1)) ∧
  (∀ ds : List (Descriptor Routine),
    ((∀ d ∈ ds, d.wf = true) → buildCatalog ds = .ok ds) ∧
    ((∃ d ∈ ds, d.wf = false) → ∃ d ∈ ds, d.wf = false ∧ buildCatalog ds = .error (.malformedDescriptor d.mnemonic))) ∧
  ∀ (cat : Catalog Routine) (s : State) (f : Fault), dispatchWith cat s = .fault f →
    f = .illegalOpcode s.pc ((s.window cat).take (fetchCount cat (s.window cat)))

/-- R80 with decision D13: a descriptor matches at PC when each of its rules matches its byte in memory, addresses
wrapping; the dispatcher takes the first in catalog order that does. R73, R76, R79, R82, R83 and R352: its routine,
whatever it is, sees the variable bits of each byte, runs with PC after the instruction, and gives the next state; its signal
chooses the cost table. For every catalog. -/
def Obligations.FirstMatchInOrderIsSelected : Prop :=
  ∀ (cat : Catalog Routine) (s : State),
    (∀ d ∈ cat, (d.matches (s.window cat) = true ↔
      ∀ (k : Nat) (r : ByteRule), d.rules[k]? = some r → r.matchesByte (s.memRead8 (s.pc + BitVec.ofNat 16 k)) = true)) ∧
    (∀ d, selectDescriptor cat (s.window cat) = some d ↔
      ∃ before after, cat = before ++ d :: after ∧ d.matches (s.window cat) = true ∧
        ∀ e ∈ before, e.matches (s.window cat) = false) ∧
    ∀ (d : Descriptor Routine) (x : List Byte) (f : Routine) (t : State) (alt : Bool),
      selectDescriptor cat (s.window cat) = some d → x.length = d.rules.length →
      (∀ (k : Nat) (r : ByteRule), d.rules[k]? = some r →
        x[k]? = some (s.memRead8 (s.pc + BitVec.ofNat 16 k) &&& r.varmask)) →
      d.routine x = some f → f { s with pc := s.pc + BitVec.ofNat 16 d.rules.length } = .ok (t, alt) →
      ∃ n, d.rules.length ≤ n ∧
        dispatchWith cat s =
          .next { state := t, cycles := if alt then (d.costAlt.getD d.cost).sum else d.cost.sum, fetched := n }

/-- The baseline has 160 descriptors, is well formed and builds (R5 item P1, R382). No byte string is matched by two of
them, none matched by one is a proper start of one matched by another, so catalog order is immaterial (R98, checked by the
spec by enumeration): every reordering selects the same descriptor, and a successful selection fetches exactly its
length. -/
def Obligations.BaselineDisjointAndStartFree : Prop :=
  (baseline.length = 160 ∧ buildCatalog baseline = .ok baseline ∧ Catalog.maxLength baseline = 4) ∧
  (∀ (m n : Nat) (d e : Descriptor Instr) (bytes more : List Byte), baseline[m]? = some d → baseline[n]? = some e →
    bytes.length = d.length → d.matches bytes = true → (bytes ++ more).length = e.length →
    e.matches (bytes ++ more) = true → m = n ∧ more = []) ∧
  (∀ (cat : Catalog Instr) (bytes : List Byte), cat.Perm baseline → selectDescriptor cat bytes = selectDescriptor baseline bytes) ∧
  ∀ (bytes : List Byte) (d : Descriptor Instr), selectDescriptor baseline bytes = some d → fetchCount baseline bytes = d.length

/-- R81 with decision D30, and R381 with decision D14: when no descriptor matches, the step faults with IllegalOpcode at
PC; the bytes it carries are the first k + 1, where k is the greatest number of leading rules of one descriptor that
matched. For every catalog whose descriptors have rules. -/
def Obligations.IllegalOpcodeCarriesFetchedBytes : Prop :=
  ∀ (cat : Catalog Routine) (s : State), cat ≠ [] → (∀ d ∈ cat, d.rules ≠ []) → selectDescriptor cat (s.window cat) = none →
    ∃ d ∈ cat, (∀ e ∈ cat, leadingMatches e.rules (s.window cat) ≤ leadingMatches d.rules (s.window cat)) ∧
      dispatchWith cat s =
        .fault (.illegalOpcode s.pc (s.bytesFrom (leadingMatches d.rules (s.window cat) + 1) s.pc))

/-- R94 (enumerated by the spec): the illegal space of the baseline, complete, by the four bytes at PC. -/
def Obligations.IllegalSpaceIsComplete : Prop :=
  ∀ s : State,
    let b0 := s.memRead8 s.pc
    let b1 := s.memRead8 (s.pc + 1)
    let b3 := s.memRead8 (s.pc + 3)
    (∃ bytes, step s = .fault (.illegalOpcode s.pc bytes)) ↔
      (b0 ∈ [0x27, 0x76, 0xD3, 0xDB] ∨
       (b0 = 0xCB ∧ ¬ (b1.toNat ≤ 0x2F ∨ (0x38 ≤ b1.toNat ∧ b1.toNat ≤ 0x3F))) ∨
       (b0 = 0xED ∧ b1 ∉ [0x42, 0x43, 0x44, 0x45, 0x47, 0x4A, 0x4B, 0x4D, 0x4F, 0x52, 0x53, 0x57, 0x5A, 0x5B, 0x5F,
         0x62, 0x63, 0x6A, 0x6B, 0x72, 0x73, 0x7A, 0x7B]) ∨
       ((b0 = 0xDD ∨ b0 = 0xFD) ∧ b1 ∉ [0x09, 0x19, 0x21, 0x22, 0x23, 0x29, 0x2A, 0x2B, 0x34, 0x35, 0x36, 0x39, 0x46,
         0x4E, 0x56, 0x5E, 0x66, 0x6E, 0x70, 0x71, 0x72, 0x73, 0x74, 0x75, 0x77, 0x7E, 0x86, 0x8E, 0x96, 0x9E, 0xA6,
         0xAE, 0xB6, 0xBE, 0xCB, 0xE1, 0xE3, 0xE5, 0xE9, 0xF9]) ∨
       ((b0 = 0xDD ∨ b0 = 0xFD) ∧ b1 = 0xCB ∧ b3 ∉ [0x06, 0x0E, 0x16, 0x1E, 0x26, 0x2E, 0x3E]))

/-- A step runs the decoded instruction: when the bytes at PC decode to i, i is well formed and the step is `exec i` in
the state whose PC is already the address after the instruction (R79, R82). -/
def Obligations.StepRunsDecodedInstruction : Prop :=
  ∀ (s : State) (i : Instr) (rest : List Byte), decode (s.bytesFrom 4 s.pc) = .ok (i, rest) →
    i.wf = true ∧ step s = exec i { s with pc := s.pc + BitVec.ofNat 16 (4 - rest.length) }

/-- An instruction whose encoding lies at PC, anywhere in memory and however it wraps, is the one the step runs, with
exactly its bytes fetched; the bytes are those memory holds before the step, so an instruction that overwrites itself
completes as fetched (R60, R79, R81, R82). -/
def Obligations.StepRunsInstructionInMemory : Prop :=
  ∀ (s : State) (i : Instr), i.wf = true →
    (∀ (k : Nat) (b : Byte), (encode i)[k]? = some b → s.memRead8 (s.pc + BitVec.ofNat 16 k) = b) →
    ∃ t n, exec i { s with pc := s.pc + BitVec.ofNat 16 (encode i).length } = .next t ∧
      dispatchWith baselineCatalog s = .next { state := t, cycles := n, fetched := (encode i).length } ∧
      step s = .next t

/-- R10: a step has two outcomes, a next state together with a cycle count (an integer of at least 1, R83), or IllegalOpcode.
There is no third. What the fault carries, PC and the bytes fetched, is decision D14's and D30's (log entry 10), and that
one to four bytes are fetched is R81's with R5 item P14. -/
def Obligations.StepHasTwoOutcomes : Prop :=
  ∀ s : State,
    (∃ r, dispatchWith baselineCatalog s = .next r ∧ step s = .next r.state ∧ 1 ≤ r.cycles ∧ 1 ≤ r.fetched ∧
      r.fetched ≤ 4) ∨
    (∃ bytes, dispatchWith baselineCatalog s = .fault (.illegalOpcode s.pc bytes) ∧
      step s = .fault (.illegalOpcode s.pc bytes) ∧ 1 ≤ bytes.length ∧ bytes.length ≤ 4)

/-- R352 and the cost tables of decision D22: what the dispatcher reports for each conditional transfer, taken and not
taken. The condition is that of the flags before the step. -/
def Obligations.ConditionalCycleCounts : Prop :=
  ∀ (s : State) (i : Instr), i.wf = true →
    (∀ (k : Nat) (b : Byte), (encode i)[k]? = some b → s.memRead8 (s.pc + BitVec.ofNat 16 k) = b) →
    ∃ r, dispatchWith baselineCatalog s = .next r ∧
      (∀ cc nn, i = .jpCc cc nn → r.cycles = 10) ∧
      (∀ cc e, i = .jrCc cc e → r.cycles = if condHolds cc s.flags then 12 else 7) ∧
      (∀ cc nn, i = .callCc cc nn → r.cycles = if condHolds cc s.flags then 17 else 10) ∧
      (∀ cc, i = .retCc cc → r.cycles = if condHolds cc s.flags then 11 else 5) ∧
      ∀ e, i = .djnz e → r.cycles = if s.b = 1 then 8 else 13

/-- R406: no state depends on a cost table. A catalog with other cost tables leaves the same states and the same
faults. -/
def Obligations.CostTablesDoNotReachState : Prop :=
  ∀ (cat : Catalog Routine) (cost : Descriptor Routine → List Nat)
    (alt : Descriptor Routine → Option (List Nat)) (s : State),
    stateOf (dispatchWith (cat.map fun d => { d with cost := cost d, costAlt := alt d }) s) =
      stateOf (dispatchWith cat s)

/-! ## State, reset and memory -/

/-- R35 and R400 with decision D6: whatever the launch arguments, PC, I and R are zero, IFF1 and IFF2 are false, and every
other cell and the memory are the launch's. `State.reset` is one such launch: its other values are the model's choice
(log entries 1 and 2) and nothing here says them. -/
def Obligations.LaunchGivesResetValues : Prop :=
  (∀ (r : InitRegs) (m : Memory),
    (State.launch r m).pc = 0x0000 ∧ (State.launch r m).i = 0x00 ∧ (State.launch r m).r = 0x00 ∧
    (State.launch r m).iff1 = false ∧ (State.launch r m).iff2 = false ∧
    (State.launch r m).af = r.af ∧ (State.launch r m).bc = r.bc ∧ (State.launch r m).de = r.de ∧
    (State.launch r m).hl = r.hl ∧ (State.launch r m).af' = r.af' ∧ (State.launch r m).bc' = r.bc' ∧
    (State.launch r m).de' = r.de' ∧ (State.launch r m).hl' = r.hl' ∧ (State.launch r m).ix = r.ix ∧
    (State.launch r m).iy = r.iy ∧ (State.launch r m).sp = r.sp ∧ (State.launch r m).mem = m) ∧
  ∃ r m, State.reset = State.launch r m

/-- The invariant holds at reset, whose memory lists nothing (the model's choice, log entry 2). -/
def Obligations.ResetMeetsInvariant : Prop := State.reset.Inv

/-- Every step keeps memory in its canonical form, from every state that has it. -/
def Obligations.StepKeepsMemoryCanonical : Prop :=
  ∀ s t : State, s.Inv → step s = .next t → t.Inv

/-- Canonical memories that read alike are equal data, so comparing states compares what they hold. -/
def Obligations.CanonicalMemoryIsDetermined : Prop :=
  ∀ m m' : Memory, m.wf = true → m'.wf = true → (∀ x : Word, m.get x = m'.get x) → m = m'

/-- R59 (a): reading an address after any sequence of writes gives the byte last written there, and what it held before
the sequence when none was. -/
def Obligations.ReadGivesLastWrite : Prop :=
  ∀ (writes : List (Word × Byte)) (s : State) (x : Word),
    (writes.foldl (fun u w => u.memWrite8 w.1 w.2) s).memRead8 x =
      match writes.reverse.find? fun w => w.1 == x with
      | some w => w.2
      | none => s.memRead8 x

/-- R53 with decision D7: a word is two bytes, the low one at the lower address, which wraps; a word written reads back,
each half alone too, and nothing else changes. -/
def Obligations.WordByteOrder : Prop :=
  ∀ (s : State) (x w : Word),
    (s.memWrite16 x w).memRead8 x = loByte w ∧ (s.memWrite16 x w).memRead8 (x + 1) = hiByte w ∧
    (s.memWrite16 x w).memRead16 x = w ∧
    (s.memRead16 x).toNat = 256 * (s.memRead8 (x + 1)).toNat + (s.memRead8 x).toNat ∧
    UnchangedExcept [] s (s.memWrite16 x w) ∧ MemoryUnchangedExcept [x, x + 1] s (s.memWrite16 x w)

/-- R181 and R182 with decision D8: where a push stores and where it leaves SP; a pop after a push gives the word back and
restores SP; SP wraps. -/
def Obligations.StackDiscipline : Prop :=
  ∀ (s : State) (w : Word),
    PushedOnto s (s.push w) w ∧ UnchangedExcept [.sp] s (s.push w) ∧
    (s.push w).pop.1 = w ∧ (s.push w).pop.2.sp = s.sp ∧
    s.pop.1 = s.wordAt s.sp ∧ s.pop.2.sp = s.sp + 2 ∧ UnchangedExcept [.sp] s s.pop.2 ∧
    MemoryUnchangedExcept [] s s.pop.2 ∧
    (s.sp = 0x0000 → (s.push w).memRead8 0xFFFF = hiByte w ∧ (s.push w).memRead8 0xFFFE = loByte w)

/-- R21, and R30 and R31 for IR (which half is the high one is decision D3, R22, log entry 8): a pair and its two views are
one cell, and a write to one view leaves the other as it was. -/
def Obligations.ViewsAliasTheirPair : Prop :=
  ∀ (s : State) (v : Byte),
    s.af.toNat = 256 * s.a.toNat + s.f.toNat ∧ s.bc.toNat = 256 * s.b.toNat + s.c.toNat ∧
    s.de.toNat = 256 * s.d.toNat + s.e.toNat ∧ s.hl.toNat = 256 * s.h.toNat + s.l.toNat ∧
    s.ir.toNat = 256 * s.i.toNat + s.r.toNat ∧
    (s.setA v).af.toNat = 256 * v.toNat + s.af.toNat % 256 ∧ (s.setF v).af.toNat = 256 * s.a.toNat + v.toNat ∧
    (∀ r, (s.writeR8 r v).readR8 r = v) ∧ ∀ r, UnchangedExcept [r.cell] s (s.writeR8 r v)

/-- R34: between two steps the caller may write any cell with any value of its width, F bits 5 and 3 and PC among them;
the value reads back and no other cell and no memory changes. -/
def Obligations.CallerWritesAnyCell : Prop :=
  ∀ (s : State) (x : Cell) (v : Nat), v < x.size →
    (s.setCell x v).cell x = v ∧ UnchangedExcept [x] s (s.setCell x v) ∧ (s.setCell x v).mem = s.mem ∧ s.cell x < x.size

/-- R391: a run takes a catalog and a policy of the caller. With the baseline and the policy that does nothing it is the step
iterated until a fault, or for as many steps as asked; under any policy, the run under the baseline from an act list is the
step from the state the acts leave; with any catalog and any policy a run ends in no fault but IllegalOpcode. -/
def Obligations.IdleCallerIteratesStep : Prop :=
  (∀ (k : Nat) (reports : List Report) (s : State),
    runWithCaller baselineCatalog .idle k reports s = core.run k s) ∧
  (∀ (policy : HostPolicy) (reports : List Report) (s : State) (acts : List CallerAction),
    policy reports s = some acts →
      runWithCaller baselineCatalog policy 1 reports s = step (applyActions acts s)) ∧
  ∀ (cat : Catalog Routine) (policy : HostPolicy) (k : Nat) (reports : List Report) (s : State) (f : Fault),
    runWithCaller cat policy k reports s = .fault f → ∃ pc bytes, f = .illegalOpcode pc bytes

/-! ## The flag algebra and the ALU -/

/-- R112 and R115 (the bit positions are decision D1, the two spare bits decision D2): each flag is resolved by its own
directive from its own old value, and bits 5 and 3 are copied. -/
def Obligations.ApplyResolvesEachFlag : Prop :=
  ∀ (F : Byte) (dir : Directives),
    flagValues (applyFlags F dir) =
      { s := dir.s.resolve (flagValues F).s, z := dir.z.resolve (flagValues F).z, h := dir.h.resolve (flagValues F).h,
        pv := dir.pv.resolve (flagValues F).pv, n := dir.n.resolve (flagValues F).n, c := dir.c.resolve (flagValues F).c } ∧
    applyFlags F dir &&& 0x28 = F &&& 0x28 ∧ ∀ old,
      Directive.set.resolve old = true ∧ Directive.reset.resolve old = false ∧ Directive.keep.resolve old = old ∧
        ∀ b, (Directive.cond b).resolve old = b

/-- R117: parity is true when the number of 1 bits is even. -/
def Obligations.ParityCountsOnes : Prop :=
  (∀ v : Byte, parity v = decide (((List.range 8).filter fun k => v.getLsbD k).length % 2 = 0)) ∧
    parity 0x00 = true ∧ parity 0x01 = false ∧ parity 0xFF = true

/-- R140 (the reading of (c) is decision D29): the source's laws of the ALU, as it writes F. -/
def Obligations.SourceAluLaws : Prop :=
  (∀ a : Byte, (inc8 (dec8 a).value).value = a ∧ (dec8 (inc8 a).value).value = a) ∧
  (∀ F a : Byte, (flagValues (applyFlags F (inc8 a).dir)).c = (flagValues F).c ∧
    (flagValues (applyFlags F (dec8 a).dir)).c = (flagValues F).c) ∧
  (∀ (F a : Byte) (c : Bool),
    let first := rr8 a c
    let c1 := (flagValues (applyFlags F first.dir)).c
    let second := rl8 first.value c1
    second.value = a ∧ (flagValues (applyFlags F second.dir)).c = c) ∧
  (∀ a : Byte, (rlc8 (rrc8 a).value).value = a) ∧
  (∀ F a b : Byte, (flagValues (applyFlags F (add8 a b).dir)).z = decide ((a.toNat + b.toNat) % 256 = 0) ∧
    (flagValues (applyFlags F (add8 a b).dir)).c = decide (255 < a.toNat + b.toNat)) ∧
  ∀ F a b : Byte, ∀ x ∈ [and8 a b, or8 a b, xor8 a b],
    (flagValues (applyFlags F x.dir)).pv = decide (((List.range 8).filter fun k => x.value.getLsbD k).length % 2 = 0)

/-- R7, R90 and R91 (reading e like d is the spec's own decision): a displacement byte is signed, and an address it gives
wraps. -/
def Obligations.DisplacementIsSigned : Prop :=
  ∀ (s : State) (d : Byte),
    let k := if d.toNat < 128 then d.toNat else d.toNat + 65280
    (sext16 d).toNat = k ∧
    ((MemOp.ix d).ea s).toNat = (s.ix.toNat + k) % 65536 ∧ ((MemOp.iy d).ea s).toNat = (s.iy.toNat + k) % 65536 ∧
    (s.pc + sext16 d).toNat = (s.pc.toNat + k) % 65536 ∧ (sext16 d).toInt = d.toInt

/-! ## 8-bit loads -/

/-- Loads of an 8-bit register: the value, and everything else unchanged (R154 to R156, R159, R160, R165 to R167). -/
def Obligations.ByteLoadsComplete : Prop :=
  ∀ s : State,
    (∀ dst src, LoadResult (.ldRR dst src) s [dst.cell] fun t => t.readR8 dst = s.readR8 src) ∧
    (∀ r n, LoadResult (.ldRN r n) s [r.cell] fun t => t.readR8 r = n) ∧
    (∀ r, LoadResult (.ldRHl r) s [r.cell] fun t => t.readR8 r = s.memRead8 s.hl) ∧
    (∀ r d, LoadResult (.ldRIx r d) s [r.cell] fun t => t.readR8 r = s.memRead8 (s.ix + sext16 d)) ∧
    (∀ r d, LoadResult (.ldRIy r d) s [r.cell] fun t => t.readR8 r = s.memRead8 (s.iy + sext16 d)) ∧
    (LoadResult .ldABc s [.a] fun t => t.a = s.memRead8 s.bc) ∧
    (LoadResult .ldADe s [.a] fun t => t.a = s.memRead8 s.de) ∧
    ∀ nn, LoadResult (.ldANn nn) s [.a] fun t => t.a = s.memRead8 nn

/-- Stores of one byte: where, what, and every other byte and every cell unchanged (R157, R158, R161 to R164, R168 to
R170). -/
def Obligations.ByteStoresComplete : Prop :=
  ∀ s : State,
    (∀ r, StoreResult (.ldHlR r) s (MemOp.hl.ea s) (s.readR8 r)) ∧
    (∀ n, StoreResult (.ldHlN n) s (MemOp.hl.ea s) n) ∧
    (∀ d r, StoreResult (.ldIxR d r) s ((MemOp.ix d).ea s) (s.readR8 r)) ∧
    (∀ d r, StoreResult (.ldIyR d r) s ((MemOp.iy d).ea s) (s.readR8 r)) ∧
    (∀ d n, StoreResult (.ldIxN d n) s ((MemOp.ix d).ea s) n) ∧
    (∀ d n, StoreResult (.ldIyN d n) s ((MemOp.iy d).ea s) n) ∧
    StoreResult .ldBcA s (MemOp.bc.ea s) s.a ∧ StoreResult .ldDeA s (MemOp.de.ea s) s.a ∧
    (∀ nn, StoreResult (.ldNnA nn) s ((MemOp.abs nn).ea s) s.a) ∧
    MemOp.hl.ea s = s.hl ∧ MemOp.bc.ea s = s.bc ∧ MemOp.de.ea s = s.de ∧ ∀ nn, (MemOp.abs nn).ea s = nn

/-- LD A,I and LD A,R: the value, S and Z from it, P/V from IFF2, H and N reset, C kept (R171, R172). LD I,A and LD R,A
write one half of IR and no flag (R173, R174). -/
def Obligations.InterruptAndRefreshLoads : Prop :=
  ∀ s : State,
    AccumulatorResult .ldAI s s.i.toNat
      { s := decide (128 ≤ s.i.toNat), z := decide (s.i.toNat = 0), h := false, pv := s.iff2, n := false, c := s.flags.c } ∧
    AccumulatorResult .ldAR s s.r.toNat
      { s := decide (128 ≤ s.r.toNat), z := decide (s.r.toNat = 0), h := false, pv := s.iff2, n := false, c := s.flags.c } ∧
    (LoadResult .ldIA s [.i] fun t => t.i = s.a) ∧ LoadResult .ldRA s [.r] fun t => t.r = s.a

/-! ## 16-bit loads, stack, exchange -/

/-- Loads of a 16-bit cell: the value, low byte from the lower address, and everything else unchanged (R184 to R190, R195
to R197). -/
def Obligations.WordLoadsComplete : Prop :=
  ∀ (s : State) (nn : Word),
    (∀ dd, LoadResult (.ldDdNn dd nn) s dd.cells fun t => t.readRp dd = nn) ∧
    (LoadResult (.ldIxNn nn) s [.ix] fun t => t.ix = nn) ∧ (LoadResult (.ldIyNn nn) s [.iy] fun t => t.iy = nn) ∧
    (LoadResult (.ldHlMem nn) s [.h, .l] fun t => t.l = s.memRead8 nn ∧ t.h = s.memRead8 (nn + 1)) ∧
    (∀ dd, LoadResult (.ldDdMem dd nn) s dd.cells fun t => t.readRp dd = s.wordAt nn) ∧
    (LoadResult (.ldIxMem nn) s [.ix] fun t => t.ix = s.wordAt nn) ∧
    (LoadResult (.ldIyMem nn) s [.iy] fun t => t.iy = s.wordAt nn) ∧
    (LoadResult .ldSpHl s [.sp] fun t => t.sp = s.hl) ∧ (LoadResult .ldSpIx s [.sp] fun t => t.sp = s.ix) ∧
    LoadResult .ldSpIy s [.sp] fun t => t.sp = s.iy

/-- Stores of a 16-bit cell: two bytes, and everything else unchanged (R191 to R194). -/
def Obligations.WordStoresComplete : Prop :=
  ∀ (s : State) (nn : Word),
    StoreWordResult (.ldMemHl nn) s nn s.hl ∧ (∀ dd, StoreWordResult (.ldMemDd nn dd) s nn (s.readRp dd)) ∧
    StoreWordResult (.ldMemIx nn) s nn s.ix ∧ StoreWordResult (.ldMemIy nn) s nn s.iy

/-- PUSH: the word goes on top of the stack and only SP and those two bytes change (R198 to R200). -/
def Obligations.PushesComplete : Prop :=
  ∀ s : State,
    (∀ qq, ∃ t, exec (.pushQq qq) s = .next t ∧ PushedOnto s t (s.readRp2 qq) ∧ UnchangedExcept [.sp] s t) ∧
    (∃ t, exec .pushIx s = .next t ∧ PushedOnto s t s.ix ∧ UnchangedExcept [.sp] s t) ∧
    ∃ t, exec .pushIy s = .next t ∧ PushedOnto s t s.iy ∧ UnchangedExcept [.sp] s t

/-- POP: the word on top of the stack goes to the pair, all eight bits of F with POP AF, and SP moves up by two (R201 to
R203). -/
def Obligations.PopsComplete : Prop :=
  ∀ s : State,
    (∀ qq, LoadResult (.popQq qq) s (.sp :: qq.cells) fun t => t.readRp2 qq = s.wordAt s.sp ∧ t.sp = s.sp + 2) ∧
    (LoadResult .popIx s [.sp, .ix] fun t => t.ix = s.wordAt s.sp ∧ t.sp = s.sp + 2) ∧
    LoadResult .popIy s [.sp, .iy] fun t => t.iy = s.wordAt s.sp ∧ t.sp = s.sp + 2

/-- The exchanges of registers move the contents of both cells, and executing one twice restores the state (R183, R204
to R206). -/
def Obligations.RegisterExchangesComplete : Prop :=
  ∀ s : State,
    (LoadResult .exDeHl s [.d, .e, .h, .l] fun t => t.de = s.hl ∧ t.hl = s.de ∧ exec .exDeHl t = .next s) ∧
    (LoadResult .exAfAf s [.a, .f, .af'] fun t => t.af = s.af' ∧ t.af' = s.af ∧ exec .exAfAf t = .next s) ∧
    LoadResult .exx s [.b, .c, .d, .e, .h, .l, .bc', .de', .hl'] fun t =>
      t.bc = s.bc' ∧ t.de = s.de' ∧ t.hl = s.hl' ∧ t.bc' = s.bc ∧ t.de' = s.de ∧ t.hl' = s.hl ∧ exec .exx t = .next s

/-- EX (SP): the register takes the word on top of the stack, the old register goes there, and SP stays (R207 to
R209). -/
def Obligations.StackExchangesComplete : Prop :=
  ∀ s : State,
    (∃ t, exec .exSpHl s = .next t ∧ t.hl = s.wordAt s.sp ∧ t.wordAt s.sp = s.hl ∧ UnchangedExcept [.h, .l] s t ∧
      MemoryUnchangedExcept [s.sp, s.sp + 1] s t) ∧
    (∃ t, exec .exSpIx s = .next t ∧ t.ix = s.wordAt s.sp ∧ t.wordAt s.sp = s.ix ∧ UnchangedExcept [.ix] s t ∧
      MemoryUnchangedExcept [s.sp, s.sp + 1] s t) ∧
    ∃ t, exec .exSpIy s = .next t ∧ t.iy = s.wordAt s.sp ∧ t.wordAt s.sp = s.iy ∧ UnchangedExcept [.iy] s t ∧
      MemoryUnchangedExcept [s.sp, s.sp + 1] s t

/-! ## 8-bit arithmetic and logic -/

/-- ADD A and ADC A in their five operand forms, on unbounded integers: the sum modulo 256, S, Z, H the carry out of bit
3, P/V the signed overflow, N reset, C the carry out of bit 7; ADC takes the old C into the sum before every flag (R120,
R121 with decision D15, R224 to R233). -/
def Obligations.AddAndAdcResults : Prop :=
  ∀ s : State,
    (AccumulatorForms .addAR .addAN .addAHl .addAIx .addAIy fun i operand =>
      let x := s.a
      let y := operand s
      let sum := (x.toNat + y.toNat) % 256
      AccumulatorResult i s sum
        { s := decide (128 ≤ sum), z := decide (sum = 0), h := decide (15 < x.toNat % 16 + y.toNat % 16),
          pv := decide (x.toInt + y.toInt < -128 ∨ 127 < x.toInt + y.toInt), n := false,
          c := decide (255 < x.toNat + y.toNat) }) ∧
    AccumulatorForms .adcAR .adcAN .adcAHl .adcAIx .adcAIy fun i operand =>
      let x := s.a
      let y := operand s
      let c := s.flags.c.toNat
      let sum := (x.toNat + y.toNat + c) % 256
      AccumulatorResult i s sum
        { s := decide (128 ≤ sum), z := decide (sum = 0), h := decide (15 < x.toNat % 16 + y.toNat % 16 + c),
          pv := decide (x.toInt + y.toInt + c < -128 ∨ 127 < x.toInt + y.toInt + c), n := false,
          c := decide (255 < x.toNat + y.toNat + c) }

/-- SUB and SBC A in their five operand forms: the difference modulo 256, H and C the borrows, P/V the signed overflow, N
set; SBC takes the old C as a borrow into the difference before every flag (R122, R123 with decision D15, R234 to
R243). -/
def Obligations.SubAndSbcResults : Prop :=
  ∀ s : State,
    (AccumulatorForms .subR .subN .subHl .subIx .subIy fun i operand =>
      let x := s.a
      let y := operand s
      let diff := (x.toNat + 256 - y.toNat) % 256
      AccumulatorResult i s diff
        { s := decide (128 ≤ diff), z := decide (diff = 0), h := decide (x.toNat % 16 < y.toNat % 16),
          pv := decide (x.toInt - y.toInt < -128 ∨ 127 < x.toInt - y.toInt), n := true, c := decide (x.toNat < y.toNat) }) ∧
    AccumulatorForms .sbcAR .sbcAN .sbcAHl .sbcAIx .sbcAIy fun i operand =>
      let x := s.a
      let y := operand s
      let c := s.flags.c.toNat
      let diff := (x.toNat + 256 - y.toNat - c) % 256
      AccumulatorResult i s diff
        { s := decide (128 ≤ diff), z := decide (diff = 0), h := decide (x.toNat % 16 < y.toNat % 16 + c),
          pv := decide (x.toInt - y.toInt - c < -128 ∨ 127 < x.toInt - y.toInt - c), n := true,
          c := decide (x.toNat < y.toNat + c) }

/-- AND, XOR and OR in their five operand forms: bit by bit, S and Z from the result, P/V its parity, H set by AND and
reset by the others, N and C reset (R124 to R126 with decision D16, R244 to R258). -/
def Obligations.LogicResults : Prop :=
  ∀ s : State,
    let flagsOf := fun (v : Byte) (h : Bool) =>
      ({ s := decide (128 ≤ v.toNat), z := decide (v = 0), h := h,
         pv := decide (((List.range 8).filter fun k => v.getLsbD k).length % 2 = 0), n := false, c := false } : FlagValues)
    (AccumulatorForms .andR .andN .andHl .andIx .andIy fun i operand =>
      AccumulatorResult i s (s.a &&& operand s).toNat (flagsOf (s.a &&& operand s) true)) ∧
    (AccumulatorForms .xorR .xorN .xorHl .xorIx .xorIy fun i operand =>
      AccumulatorResult i s (s.a ^^^ operand s).toNat (flagsOf (s.a ^^^ operand s) false)) ∧
    AccumulatorForms .orR .orN .orHl .orIx .orIy fun i operand =>
      AccumulatorResult i s (s.a ||| operand s).toNat (flagsOf (s.a ||| operand s) false)

/-- CP in its five operand forms: the flags of SUB, A unchanged (R122, R259 to R263). -/
def Obligations.CompareResults : Prop :=
  ∀ s : State,
    AccumulatorForms .cpR .cpN .cpHl .cpIx .cpIy fun i operand =>
      let x := s.a
      let y := operand s
      let diff := (x.toNat + 256 - y.toNat) % 256
      FlagsOnlyResult i s
        { s := decide (128 ≤ diff), z := decide (diff = 0), h := decide (x.toNat % 16 < y.toNat % 16),
          pv := decide (x.toInt - y.toInt < -128 ∨ 127 < x.toInt - y.toInt), n := true, c := decide (x.toNat < y.toNat) }

/-- INC and DEC of a byte in their four operand forms: the wrapped result, P/V at the one boundary value, C kept (R127,
R128 with decision D17, R264 to R271). -/
def Obligations.IncAndDecByteResults : Prop :=
  ∀ s : State,
    (PlaceForms .incR .incMemHl .incMemIx .incMemIy fun i p =>
      let x := (p.read s).toNat
      PlaceResult i p s ((x + 1) % 256)
        { s := decide (128 ≤ (x + 1) % 256), z := decide (x = 255), h := decide (x % 16 = 15), pv := decide (x = 127),
          n := false, c := s.flags.c }) ∧
    PlaceForms .decR .decMemHl .decMemIx .decMemIy fun i p =>
      let x := (p.read s).toNat
      PlaceResult i p s ((x + 255) % 256)
        { s := decide (128 ≤ (x + 255) % 256), z := decide (x = 1), h := decide (x % 16 = 0), pv := decide (x = 128),
          n := true, c := s.flags.c }

/-- CPL, NEG, CCF and SCF (R272 to R275; what CCF and SCF do to H and N are the spec's own decisions). -/
def Obligations.AccumulatorAndCarryOperations : Prop :=
  ∀ s : State,
    AccumulatorResult .cpl s (255 - s.a.toNat) { s.flags with h := true, n := true } ∧
    AccumulatorResult .neg s ((256 - s.a.toNat) % 256)
      { s := decide (128 ≤ (256 - s.a.toNat) % 256), z := decide (s.a = 0), h := decide (s.a.toNat % 16 ≠ 0),
        pv := decide (s.a.toNat = 128), n := true, c := decide (s.a ≠ 0) } ∧
    FlagsOnlyResult .ccf s { s.flags with h := s.flags.c, n := false, c := !s.flags.c } ∧
    FlagsOnlyResult .scf s { s.flags with h := false, n := false, c := true }

/-! ## 16-bit arithmetic -/

/-- ADD HL,ss, ADD IX,pp and ADD IY,rr: the sum modulo 65536; H the carry out of bit 11, N reset, C the carry out of bit
15; S, Z and P/V kept (R129 with decision D18, R291, R294, R295). -/
def Obligations.WordAddResults : Prop :=
  ∀ s : State,
    let flagsOf := fun (x y : Word) =>
      ({ s.flags with h := decide (4095 < x.toNat % 4096 + y.toNat % 4096), n := false,
                      c := decide (65535 < x.toNat + y.toNat) } : FlagValues)
    (∀ ss, LoadResult (.addHlSs ss) s [.h, .l, .f] fun t =>
      t.hl.toNat = (s.hl.toNat + (s.readRp ss).toNat) % 65536 ∧ t.flags = flagsOf s.hl (s.readRp ss) ∧
        t.spareBits = s.spareBits) ∧
    (∀ pp, LoadResult (.addIxPp pp) s [.ix, .f] fun t =>
      t.ix.toNat = (s.ix.toNat + (s.readRpx pp).toNat) % 65536 ∧ t.flags = flagsOf s.ix (s.readRpx pp) ∧
        t.spareBits = s.spareBits) ∧
    ∀ rr, LoadResult (.addIyRr rr) s [.iy, .f] fun t =>
      t.iy.toNat = (s.iy.toNat + (s.readRpy rr).toNat) % 65536 ∧ t.flags = flagsOf s.iy (s.readRpy rr) ∧
        t.spareBits = s.spareBits

/-- ADC HL,ss and SBC HL,ss: with the old C in the sum or difference, all six flags written, Z from the whole word (R130,
R131 with decision D18, R292, R293). -/
def Obligations.WordAdcAndSbcResults : Prop :=
  ∀ (s : State) (ss : Rp),
    let x := s.hl
    let y := s.readRp ss
    let c := s.flags.c.toNat
    (LoadResult (.adcHlSs ss) s [.h, .l, .f] fun t =>
      t.hl.toNat = (x.toNat + y.toNat + c) % 65536 ∧ t.spareBits = s.spareBits ∧
        t.flags =
          { s := decide (32768 ≤ t.hl.toNat), z := decide (t.hl.toNat = 0),
            h := decide (4095 < x.toNat % 4096 + y.toNat % 4096 + c),
            pv := decide (x.toInt + y.toInt + c < -32768 ∨ 32767 < x.toInt + y.toInt + c), n := false,
            c := decide (65535 < x.toNat + y.toNat + c) }) ∧
    LoadResult (.sbcHlSs ss) s [.h, .l, .f] fun t =>
      t.hl.toNat = (x.toNat + 65536 - y.toNat - c) % 65536 ∧ t.spareBits = s.spareBits ∧
        t.flags =
          { s := decide (32768 ≤ t.hl.toNat), z := decide (t.hl.toNat = 0),
            h := decide (x.toNat % 4096 < y.toNat % 4096 + c),
            pv := decide (x.toInt - y.toInt - c < -32768 ∨ 32767 < x.toInt - y.toInt - c), n := true,
            c := decide (x.toNat < y.toNat + c) }

/-- R132, whole: inc16 and dec16 wrap, and the six instructions that use them leave F, bits 5 and 3 included, and
everything but their one cell unchanged. -/
def Obligations.WordIncAndDecKeepFlags : Prop :=
  (∀ a : Word, (inc16 a).toNat = (a.toNat + 1) % 65536 ∧ (dec16 a).toNat = (a.toNat + 65535) % 65536) ∧
  inc16 0xFFFF = 0x0000 ∧ dec16 0x0000 = 0xFFFF ∧
  ∀ s : State,
    (∀ ss, LoadResult (.incSs ss) s ss.cells fun t => t.readRp ss = inc16 (s.readRp ss) ∧ t.f = s.f) ∧
    (∀ ss, LoadResult (.decSs ss) s ss.cells fun t => t.readRp ss = dec16 (s.readRp ss) ∧ t.f = s.f) ∧
    (LoadResult .incIx s [.ix] fun t => t.ix = inc16 s.ix ∧ t.f = s.f) ∧
    (LoadResult .decIx s [.ix] fun t => t.ix = dec16 s.ix ∧ t.f = s.f) ∧
    (LoadResult .incIy s [.iy] fun t => t.iy = inc16 s.iy ∧ t.f = s.f) ∧
    LoadResult .decIy s [.iy] fun t => t.iy = dec16 s.iy ∧ t.f = s.f

/-! ## Rotates and shifts -/

/-- RLCA, RRCA, RLA, RRA: A rotates, C takes the bit moved out, H and N are reset, S, Z and P/V are kept (R311 to R315
with decision D19). -/
def Obligations.AccumulatorRotateResults : Prop :=
  ∀ s : State,
    let x := s.a.toNat
    let c := s.flags.c.toNat
    AccumulatorResult .rlca s ((2 * x + x / 128) % 256) { s.flags with h := false, n := false, c := decide (128 ≤ x) } ∧
    AccumulatorResult .rrca s (x / 2 + 128 * (x % 2)) { s.flags with h := false, n := false, c := decide (x % 2 = 1) } ∧
    AccumulatorResult .rla s ((2 * x + c) % 256) { s.flags with h := false, n := false, c := decide (128 ≤ x) } ∧
    AccumulatorResult .rra s (x / 2 + 128 * c) { s.flags with h := false, n := false, c := decide (x % 2 = 1) }

/-- RLC, RRC, RL and RR in their four operand forms: the rotated value, C the bit moved out, P/V the parity, S and Z from
the result, H and N reset (R116, R133 to R136 with decisions D19 and D29, R316 to R331). -/
def Obligations.RotateResults : Prop :=
  ∀ s : State,
    let c := s.flags.c.toNat
    (PlaceForms .rlcR .rlcHl .rlcIx .rlcIy fun i p =>
      let x := (p.read s).toNat
      PlaceResult i p s ((2 * x + x / 128) % 256) (shiftFlags ((2 * x + x / 128) % 256) (decide (128 ≤ x)))) ∧
    (PlaceForms .rrcR .rrcHl .rrcIx .rrcIy fun i p =>
      let x := (p.read s).toNat
      PlaceResult i p s (x / 2 + 128 * (x % 2)) (shiftFlags (x / 2 + 128 * (x % 2)) (decide (x % 2 = 1)))) ∧
    (PlaceForms .rlR .rlHl .rlIx .rlIy fun i p =>
      let x := (p.read s).toNat
      PlaceResult i p s ((2 * x + c) % 256) (shiftFlags ((2 * x + c) % 256) (decide (128 ≤ x)))) ∧
    PlaceForms .rrR .rrHl .rrIx .rrIy fun i p =>
      let x := (p.read s).toNat
      PlaceResult i p s (x / 2 + 128 * c) (shiftFlags (x / 2 + 128 * c) (decide (x % 2 = 1)))

/-- SLA, SRA and SRL in their four operand forms (R116, R137 to R139 with decision D19, R332 to R343): SRA keeps bit 7,
SRL clears it. -/
def Obligations.ShiftResults : Prop :=
  ∀ s : State,
    (PlaceForms .slaR .slaHl .slaIx .slaIy fun i p =>
      let x := (p.read s).toNat
      PlaceResult i p s (2 * x % 256) (shiftFlags (2 * x % 256) (decide (128 ≤ x)))) ∧
    (PlaceForms .sraR .sraHl .sraIx .sraIy fun i p =>
      let x := (p.read s).toNat
      PlaceResult i p s (x / 2 + 128 * (x / 128)) (shiftFlags (x / 2 + 128 * (x / 128)) (decide (x % 2 = 1)))) ∧
    PlaceForms .srlR .srlHl .srlIx .srlIy fun i p =>
      let x := (p.read s).toNat
      PlaceResult i p s (x / 2) (shiftFlags (x / 2) (decide (x % 2 = 1)))

/-! ## Control transfer -/

/-- The jumps: the target when the condition holds, the address of the next instruction when it does not, and nothing but
PC changed (R350 to R359; condition selectors and JR's e are decision D11's and R91's). `s` is the state in which the
routine starts, its PC already at the next instruction. -/
def Obligations.JumpsComplete : Prop :=
  ∀ s : State,
    let jump := fun (i : Instr) (target : Word) => LoadResult i s [.pc] fun t => t.pc = target
    (∀ nn, jump (.jpNn nn) nn) ∧ (∀ cc nn, jump (.jpCc cc nn) (if condHolds cc s.flags then nn else s.pc)) ∧
    (∀ e, jump (.jr e) (s.pc + sext16 e)) ∧
    (∀ cc e, jump (.jrCc cc e) (if condHolds cc s.flags then s.pc + sext16 e else s.pc)) ∧
    jump .jpHl s.hl ∧ jump .jpIx s.ix ∧ jump .jpIy s.iy

/-- DJNZ: B is decremented modulo 256 and the jump is made unless B is then zero; no flag changes (R360). -/
def Obligations.DjnzCompletes : Prop :=
  ∀ (s : State) (e : Byte),
    LoadResult (.djnz e) s [.b, .pc] fun t =>
      t.b.toNat = (s.b.toNat + 255) % 256 ∧ t.pc = if s.b = 1 then s.pc else s.pc + sext16 e

/-- CALL, CALL cc and RST: the address of the next instruction is pushed and PC is the target; a condition that is false
changes nothing (R350, R361, R362, R367). -/
def Obligations.CallsComplete : Prop :=
  ∀ s : State,
    let called := fun (t : State) (target : Word) => t.pc = target ∧ PushedOnto s t s.pc ∧ UnchangedExcept [.pc, .sp] s t
    (∀ nn, ∃ t, exec (.callNn nn) s = .next t ∧ called t nn) ∧
    (∀ cc nn, ∃ t, exec (.callCc cc nn) s = .next t ∧ if condHolds cc s.flags then called t nn else t = s) ∧
    ∀ p, ∃ t, exec (.rst p) s = .next t ∧ called t (zext16 p) ∧ t.pc.toNat = p.toNat

/-- RET, RET cc, RETI and RETN: PC takes the word on top of the stack; RETN also copies IFF2 into IFF1 and RETI writes
neither flip-flop (R363 to R366, R388; RETI and RETN are decision D20's). -/
def Obligations.ReturnsComplete : Prop :=
  ∀ s : State,
    let returned := fun (t : State) => t.pc = s.wordAt s.sp ∧ t.sp = s.sp + 2
    LoadResult .ret s [.pc, .sp] returned ∧ LoadResult .reti s [.pc, .sp] returned ∧
    (LoadResult .retn s [.pc, .sp, .iff1] fun t => returned t ∧ t.iff1 = s.iff2) ∧
    ∀ cc, ∃ t, exec (.retCc cc) s = .next t ∧
      if condHolds cc s.flags then returned t ∧ UnchangedExcept [.pc, .sp] s t ∧ MemoryUnchangedExcept [] s t else t = s

/-- NOP changes nothing, DI clears both flip-flops and EI sets both, at once (R368 to R370, R386). -/
def Obligations.NopAndInterruptEnable : Prop :=
  ∀ s : State,
    exec .nop s = .next s ∧
    (LoadResult .di s [.iff1, .iff2] fun t => t.iff1 = false ∧ t.iff2 = false) ∧
    LoadResult .ei s [.iff1, .iff2] fun t => t.iff1 = true ∧ t.iff2 = true

/-! ## Rules about the whole machine -/

/-- R201 and R28 (the spare bits are decision D2, the whole-cell transfers D24): only POP AF and EX AF,AF' can change bits
5 and 3 of F. -/
def Obligations.SpareFlagBitsChangeOnlyByTransfer : Prop :=
  ∀ (i : Instr) (s t : State), exec i s = .next t → i ≠ .popQq .af → i ≠ .exAfAf → t.spareBits = s.spareBits

/-- R25: no instruction computes with a shadow cell, and only EX AF,AF' and EXX touch them. Every other instruction does
the same whatever they hold and leaves them as they are; the two exchange whole cells. -/
def Obligations.ShadowSetReachedOnlyByExchange : Prop :=
  (∀ (i : Instr) (s t : State) (w1 w2 w3 w4 : Word), i ≠ .exAfAf → i ≠ .exx → exec i s = .next t →
    t.af' = s.af' ∧ t.bc' = s.bc' ∧ t.de' = s.de' ∧ t.hl' = s.hl' ∧
    exec i { s with af' := w1, bc' := w2, de' := w3, hl' := w4 } =
      .next { t with af' := w1, bc' := w2, de' := w3, hl' := w4 }) ∧
  ∀ s : State,
    exec .exAfAf s = .next { s with af := s.af', af' := s.af } ∧
    exec .exx s = .next { s with bc := s.bc', bc' := s.bc, de := s.de', de' := s.de, hl := s.hl', hl' := s.hl }

/-- R30, R31 (decision D5), R386: over a step, I changes only by LD I,A, R only by LD R,A (fetching does not advance it),
IFF1 only by DI, EI and RETN, IFF2 only by DI and EI. -/
def Obligations.StepWritersOfSystemCells : Prop :=
  ∀ (s t : State) (i : Instr) (rest : List Byte), decode (s.bytesFrom 4 s.pc) = .ok (i, rest) → step s = .next t →
    (t.i = s.i ∨ i = .ldIA) ∧ (t.r = s.r ∨ i = .ldRA) ∧
    (t.iff1 = s.iff1 ∨ i = .di ∨ i = .ei ∨ i = .retn) ∧ (t.iff2 = s.iff2 ∨ i = .di ∨ i = .ei)

/-- R385: a step never reads IFF1 to decide anything. Two states that differ only in IFF1 take the same step: the same
fault, or next states that differ at most in IFF1. -/
def Obligations.StepIgnoresInterruptEnable : Prop :=
  ∀ (s : State) (b : Bool),
    (∃ t c, step s = .next t ∧ step { s with iff1 := b } = .next { t with iff1 := c }) ∨
    ∃ f, step s = .fault f ∧ step { s with iff1 := b } = .fault f

/-- R36, R402 and R59: nothing but the cells and the bytes carries over. Two states with the same cells whose memories
read alike take the same step, up to how memory reads. -/
def Obligations.StepDependsOnlyOnWhatReads : Prop :=
  ∀ s u : State, (∀ x, u.cell x = s.cell x) → (∀ x, u.memRead8 x = s.memRead8 x) →
    (∃ t v, step s = .next t ∧ step u = .next v ∧ (∀ x, v.cell x = t.cell x) ∧ ∀ x, v.memRead8 x = t.memRead8 x) ∨
    ∃ f, step s = .fault f ∧ step u = .fault f
end

