-- ==== Sys2Proof/Laws/Alu.lean ====
section
/-! SUPPORT. The bit formulas of the ALU read as arithmetic on unbounded integers: what a sign bit, a nibble mask and
each overflow formula say (spec/40_alu_flags.md R120 to R131), and what each rotate and shift computes (R133 to R139). -/

namespace Sys2Proof.Machine

/-! ## Sign bits, masks, signed values -/

theorem getLsbD_seven (x : Byte) : x.getLsbD 7 = decide (128 ≤ x.toNat) := by
  have := BitVec.msb_eq_decide x
  rwa [BitVec.msb_eq_getLsbD_last] at this

theorem getLsbD_fifteen (x : Word) : x.getLsbD 15 = decide (32768 ≤ x.toNat) := by
  have := BitVec.msb_eq_decide x
  rwa [BitVec.msb_eq_getLsbD_last] at this

theorem getLsbD_zero (x : Byte) : x.getLsbD 0 = decide (x.toNat % 2 = 1) := by
  rw [BitVec.getLsbD, Nat.testBit_zero]

theorem and_signBit8 (x : Byte) : (x &&& 0x80 != 0) = x.getLsbD 7 := by
  revert x
  decide +kernel

theorem and_signBit16 (x : Word) : (x &&& 0x8000 != 0) = x.getLsbD 15 := by
  have h : (0x8000 : Word) = BitVec.twoPow 16 15 := by decide
  rw [h, BitVec.and_twoPow]
  cases x.getLsbD 15 <;> decide +kernel

theorem toNat_and_0x0F (x : Byte) : (x &&& 0x0F).toNat = x.toNat % 16 := by
  rw [BitVec.toNat_and]
  exact Nat.and_two_pow_sub_one_eq_mod x.toNat 4

theorem toNat_and_0x0FFF (x : Word) : (x &&& 0x0FFF).toNat = x.toNat % 4096 := by
  rw [BitVec.toNat_and]
  exact Nat.and_two_pow_sub_one_eq_mod x.toNat 12

theorem toInt_byte (x : Byte) : x.toInt = if x.toNat < 128 then (x.toNat : Int) else (x.toNat : Int) - 256 := by
  have := x.isLt
  rw [BitVec.toInt_eq_toNat_cond]
  split <;> split <;> omega

theorem toInt_word (x : Word) : x.toInt = if x.toNat < 32768 then (x.toNat : Int) else (x.toNat : Int) - 65536 := by
  have := x.isLt
  rw [BitVec.toInt_eq_toNat_cond]
  split <;> split <;> omega

theorem byte_eq_zero (x : Byte) : (x == 0) = decide (x.toNat = 0) := by
  rw [Bool.eq_iff_iff]
  simp [BitVec.toNat_eq]

theorem word_eq_zero (x : Word) : (x == 0) = decide (x.toNat = 0) := by
  rw [Bool.eq_iff_iff]
  simp [BitVec.toNat_eq]

/-! ## Results narrowed from unbounded integers -/

theorem toNat_ofInt_sub8 (a b : Byte) (c : Bool) :
    (BitVec.ofInt 8 ((a.toNat : Int) - b.toNat - c.toNat)).toNat = (a.toNat + 256 - b.toNat - c.toNat) % 256 := by
  have := a.isLt
  have := b.isLt
  rw [BitVec.toNat_ofInt]
  cases c <;> simp <;> omega

theorem toNat_ofInt_sub16 (a b : Word) (c : Bool) :
    (BitVec.ofInt 16 ((a.toNat : Int) - b.toNat - c.toNat)).toNat =
      (a.toNat + 65536 - b.toNat - c.toNat) % 65536 := by
  have := a.isLt
  have := b.isLt
  rw [BitVec.toNat_ofInt]
  cases c <;> simp <;> omega

/-! ## Signed overflow -/

theorem mismatch_iff (p q r u : Prop) [Decidable p] [Decidable q] [Decidable r] [Decidable u] :
    ((decide p ^^ decide q) && (decide r ^^ decide u)) = true ↔ ¬ (p ↔ q) ∧ ¬ (r ↔ u) := by
  by_cases p <;> by_cases q <;> by_cases r <;> by_cases u <;> simp [*]

/-- The overflow formula of R120 and R121 says that the signed sum, carry-in included, leaves -128 to 127. -/
theorem overflow_add8 (a b : Byte) (c : Bool) :
    ((a ^^^ BitVec.ofNat 8 (a.toNat + b.toNat + c.toNat)) &&& (b ^^^ BitVec.ofNat 8 (a.toNat + b.toNat + c.toNat)) &&& 0x80 != 0)
      = decide (a.toInt + b.toInt + c.toNat < -128 ∨ 127 < a.toInt + b.toInt + c.toNat) := by
  have ha := a.isLt
  have hb := b.isLt
  rw [and_signBit8, BitVec.getLsbD_and, BitVec.getLsbD_xor, BitVec.getLsbD_xor, getLsbD_seven, getLsbD_seven,
    getLsbD_seven, BitVec.toNat_ofNat, toInt_byte, toInt_byte, Bool.eq_iff_iff,
    decide_eq_true_eq, mismatch_iff]
  cases c <;> simp only [Bool.toNat_true, Bool.toNat_false] <;> split <;> split <;> omega

/-- The overflow formula of R122 and R123 says that the signed difference, borrow-in included, leaves -128 to 127. -/
theorem overflow_sub8 (a b : Byte) (c : Bool) :
    ((a ^^^ b) &&& (a ^^^ BitVec.ofInt 8 ((a.toNat : Int) - b.toNat - c.toNat)) &&& 0x80 != 0)
      = decide (a.toInt - b.toInt - c.toNat < -128 ∨ 127 < a.toInt - b.toInt - c.toNat) := by
  have ha := a.isLt
  have hb := b.isLt
  rw [and_signBit8, BitVec.getLsbD_and, BitVec.getLsbD_xor, BitVec.getLsbD_xor, getLsbD_seven, getLsbD_seven,
    getLsbD_seven, toNat_ofInt_sub8, toInt_byte, toInt_byte, Bool.eq_iff_iff,
    decide_eq_true_eq, mismatch_iff]
  cases c <;> simp only [Bool.toNat_true, Bool.toNat_false] <;> split <;> split <;> omega

/-- The overflow formula of R130 at 16 bits. -/
theorem overflow_add16 (a b : Word) (c : Bool) :
    ((a ^^^ BitVec.ofNat 16 (a.toNat + b.toNat + c.toNat)) &&& (b ^^^ BitVec.ofNat 16 (a.toNat + b.toNat + c.toNat)) &&& 0x8000 != 0)
      = decide (a.toInt + b.toInt + c.toNat < -32768 ∨ 32767 < a.toInt + b.toInt + c.toNat) := by
  have ha := a.isLt
  have hb := b.isLt
  rw [and_signBit16, BitVec.getLsbD_and, BitVec.getLsbD_xor, BitVec.getLsbD_xor, getLsbD_fifteen, getLsbD_fifteen,
    getLsbD_fifteen, BitVec.toNat_ofNat, toInt_word, toInt_word, Bool.eq_iff_iff,
    decide_eq_true_eq, mismatch_iff]
  cases c <;> simp only [Bool.toNat_true, Bool.toNat_false] <;> split <;> split <;> omega

/-- The overflow formula of R131 at 16 bits. -/
theorem overflow_sub16 (a b : Word) (c : Bool) :
    ((a ^^^ b) &&& (a ^^^ BitVec.ofInt 16 ((a.toNat : Int) - b.toNat - c.toNat)) &&& 0x8000 != 0)
      = decide (a.toInt - b.toInt - c.toNat < -32768 ∨ 32767 < a.toInt - b.toInt - c.toNat) := by
  have ha := a.isLt
  have hb := b.isLt
  rw [and_signBit16, BitVec.getLsbD_and, BitVec.getLsbD_xor, BitVec.getLsbD_xor, getLsbD_fifteen, getLsbD_fifteen,
    getLsbD_fifteen, toNat_ofInt_sub16, toInt_word, toInt_word, Bool.eq_iff_iff,
    decide_eq_true_eq, mismatch_iff]
  cases c <;> simp only [Bool.toNat_true, Bool.toNat_false] <;> split <;> split <;> omega

/-! ## One arithmetic reading per ALU function -/

/-- R121 on unbounded integers. -/
theorem adc8_eq (a b : Byte) (c : Bool) :
    (adc8 a b c).value.toNat = (a.toNat + b.toNat + c.toNat) % 256 ∧
    (adc8 a b c).dir =
      { s := .cond (decide (128 ≤ (a.toNat + b.toNat + c.toNat) % 256))
        z := .cond (decide ((a.toNat + b.toNat + c.toNat) % 256 = 0))
        h := .cond (decide (15 < a.toNat % 16 + b.toNat % 16 + c.toNat))
        pv := .cond (decide (a.toInt + b.toInt + c.toNat < -128 ∨ 127 < a.toInt + b.toInt + c.toNat))
        n := .reset
        c := .cond (decide (255 < a.toNat + b.toNat + c.toNat)) } := by
  refine ⟨BitVec.toNat_ofNat .., ?_⟩
  simp only [adc8, overflow_add8, getLsbD_seven, byte_eq_zero, toNat_and_0x0F, BitVec.toNat_ofNat]

/-- R120 on unbounded integers. -/
theorem add8_eq (a b : Byte) :
    (add8 a b).value.toNat = (a.toNat + b.toNat) % 256 ∧
    (add8 a b).dir =
      { s := .cond (decide (128 ≤ (a.toNat + b.toNat) % 256))
        z := .cond (decide ((a.toNat + b.toNat) % 256 = 0))
        h := .cond (decide (15 < a.toNat % 16 + b.toNat % 16))
        pv := .cond (decide (a.toInt + b.toInt < -128 ∨ 127 < a.toInt + b.toInt))
        n := .reset
        c := .cond (decide (255 < a.toNat + b.toNat)) } := by
  have h := overflow_add8 a b false
  simp only [Bool.toNat_false, Nat.add_zero, Int.natCast_zero, Int.add_zero] at h
  refine ⟨BitVec.toNat_ofNat .., ?_⟩
  simp only [add8, h, getLsbD_seven, byte_eq_zero, toNat_and_0x0F, BitVec.toNat_ofNat]

/-- R123 on unbounded integers. -/
theorem sbc8_eq (a b : Byte) (c : Bool) :
    (sbc8 a b c).value.toNat = (a.toNat + 256 - b.toNat - c.toNat) % 256 ∧
    (sbc8 a b c).dir =
      { s := .cond (decide (128 ≤ (a.toNat + 256 - b.toNat - c.toNat) % 256))
        z := .cond (decide ((a.toNat + 256 - b.toNat - c.toNat) % 256 = 0))
        h := .cond (decide (a.toNat % 16 < b.toNat % 16 + c.toNat))
        pv := .cond (decide (a.toInt - b.toInt - c.toNat < -128 ∨ 127 < a.toInt - b.toInt - c.toNat))
        n := .set
        c := .cond (decide (a.toNat < b.toNat + c.toNat)) } := by
  refine ⟨toNat_ofInt_sub8 a b c, ?_⟩
  simp only [sbc8, overflow_sub8, getLsbD_seven, byte_eq_zero, toNat_and_0x0F, toNat_ofInt_sub8, Directives.mk.injEq,
    Directive.cond.injEq, decide_eq_decide, true_and]
  exact ⟨by omega, by omega⟩

/-- R122 on unbounded integers. -/
theorem sub8_eq (a b : Byte) :
    (sub8 a b).value.toNat = (a.toNat + 256 - b.toNat) % 256 ∧
    (sub8 a b).dir =
      { s := .cond (decide (128 ≤ (a.toNat + 256 - b.toNat) % 256))
        z := .cond (decide ((a.toNat + 256 - b.toNat) % 256 = 0))
        h := .cond (decide (a.toNat % 16 < b.toNat % 16))
        pv := .cond (decide (a.toInt - b.toInt < -128 ∨ 127 < a.toInt - b.toInt))
        n := .set
        c := .cond (decide (a.toNat < b.toNat)) } := by
  have hv := toNat_ofInt_sub8 a b false
  have h := overflow_sub8 a b false
  simp only [Bool.toNat_false, Int.natCast_zero, Int.sub_zero, Nat.sub_zero] at hv h
  refine ⟨hv, ?_⟩
  simp only [sub8, h, getLsbD_seven, byte_eq_zero, toNat_and_0x0F, hv, Directives.mk.injEq, Directive.cond.injEq,
    decide_eq_decide, true_and]
  omega

/-- R129 on unbounded integers. -/
theorem add16_eq (a b : Word) :
    (add16 a b).value.toNat = (a.toNat + b.toNat) % 65536 ∧
    (add16 a b).dir =
      { h := .cond (decide (4095 < a.toNat % 4096 + b.toNat % 4096)), n := .reset
        c := .cond (decide (65535 < a.toNat + b.toNat)) } := by
  refine ⟨BitVec.toNat_ofNat .., ?_⟩
  simp only [add16, toNat_and_0x0FFF]

/-- R130 on unbounded integers. -/
theorem adc16_eq (a b : Word) (c : Bool) :
    (adc16 a b c).value.toNat = (a.toNat + b.toNat + c.toNat) % 65536 ∧
    (adc16 a b c).dir =
      { s := .cond (decide (32768 ≤ (a.toNat + b.toNat + c.toNat) % 65536))
        z := .cond (decide ((a.toNat + b.toNat + c.toNat) % 65536 = 0))
        h := .cond (decide (4095 < a.toNat % 4096 + b.toNat % 4096 + c.toNat))
        pv := .cond (decide (a.toInt + b.toInt + c.toNat < -32768 ∨ 32767 < a.toInt + b.toInt + c.toNat))
        n := .reset
        c := .cond (decide (65535 < a.toNat + b.toNat + c.toNat)) } := by
  refine ⟨BitVec.toNat_ofNat .., ?_⟩
  simp only [adc16, overflow_add16, getLsbD_fifteen, word_eq_zero, toNat_and_0x0FFF, BitVec.toNat_ofNat]

/-- R131 on unbounded integers. -/
theorem sbc16_eq (a b : Word) (c : Bool) :
    (sbc16 a b c).value.toNat = (a.toNat + 65536 - b.toNat - c.toNat) % 65536 ∧
    (sbc16 a b c).dir =
      { s := .cond (decide (32768 ≤ (a.toNat + 65536 - b.toNat - c.toNat) % 65536))
        z := .cond (decide ((a.toNat + 65536 - b.toNat - c.toNat) % 65536 = 0))
        h := .cond (decide (a.toNat % 4096 < b.toNat % 4096 + c.toNat))
        pv := .cond (decide (a.toInt - b.toInt - c.toNat < -32768 ∨ 32767 < a.toInt - b.toInt - c.toNat))
        n := .set
        c := .cond (decide (a.toNat < b.toNat + c.toNat)) } := by
  refine ⟨toNat_ofInt_sub16 a b c, ?_⟩
  simp only [sbc16, overflow_sub16, getLsbD_fifteen, word_eq_zero, toNat_and_0x0FFF, toNat_ofInt_sub16,
    Directives.mk.injEq, Directive.cond.injEq, decide_eq_decide, true_and]
  exact ⟨by omega, by omega⟩

/-- R127 as arithmetic. -/
theorem inc8_eq (a : Byte) :
    (inc8 a).value.toNat = (a.toNat + 1) % 256 ∧
    (inc8 a).dir =
      { s := .cond (decide (128 ≤ (a.toNat + 1) % 256)), z := .cond (decide (a.toNat = 255))
        h := .cond (decide (a.toNat % 16 = 15)), pv := .cond (decide (a.toNat = 127)), n := .reset, c := .keep } := by
  revert a
  decide +kernel

/-- R128 as arithmetic. -/
theorem dec8_eq (a : Byte) :
    (dec8 a).value.toNat = (a.toNat + 255) % 256 ∧
    (dec8 a).dir =
      { s := .cond (decide (128 ≤ (a.toNat + 255) % 256)), z := .cond (decide (a.toNat = 1))
        h := .cond (decide (a.toNat % 16 = 0)), pv := .cond (decide (a.toNat = 128)), n := .set, c := .keep } := by
  revert a
  decide +kernel

/-! ## What each rotate and shift computes; the flags are `shiftAlu`'s of the value and the bit moved out -/

theorem rlc8_eq (a : Byte) :
    rlc8 a = shiftAlu (BitVec.ofNat 8 (2 * a.toNat + a.toNat / 128)) (decide (128 ≤ a.toNat)) := by
  revert a
  decide +kernel

theorem rrc8_eq (a : Byte) :
    rrc8 a = shiftAlu (BitVec.ofNat 8 (a.toNat / 2 + 128 * (a.toNat % 2))) (decide (a.toNat % 2 = 1)) := by
  revert a
  decide +kernel

theorem rl8_eq (a : Byte) (c : Bool) :
    rl8 a c = shiftAlu (BitVec.ofNat 8 (2 * a.toNat + c.toNat)) (decide (128 ≤ a.toNat)) := by
  revert a
  cases c <;> decide +kernel

theorem rr8_eq (a : Byte) (c : Bool) :
    rr8 a c = shiftAlu (BitVec.ofNat 8 (a.toNat / 2 + 128 * c.toNat)) (decide (a.toNat % 2 = 1)) := by
  revert a
  cases c <;> decide +kernel

theorem sla8_eq (a : Byte) : sla8 a = shiftAlu (BitVec.ofNat 8 (2 * a.toNat)) (decide (128 ≤ a.toNat)) := by
  revert a
  decide +kernel

theorem sra8_eq (a : Byte) :
    sra8 a = shiftAlu (BitVec.ofNat 8 (a.toNat / 2 + 128 * (a.toNat / 128))) (decide (a.toNat % 2 = 1)) := by
  revert a
  decide +kernel

theorem srl8_eq (a : Byte) : srl8 a = shiftAlu (BitVec.ofNat 8 (a.toNat / 2)) (decide (a.toNat % 2 = 1)) := by
  revert a
  decide +kernel

end Sys2Proof.Machine
end

