-- ==== Sys2Proof/Laws/Decode.lean ====
section
/-! SUPPORT. Selection and decoding on bytes of which only some are known: `certainSelect` tests a catalog against a
pattern of known and unknown bytes, and when it names a descriptor every byte string of that pattern selects it. A proof
about an instruction with immediates then runs the matcher once on its opcode bytes. -/

namespace Sys2Proof

/-! ## Rules that match every byte -/

theorem and_0xFF (b : Byte) : b &&& 0xFF#8 = b := BitVec.and_allOnes

@[simp] theorem anyByte_matches (b : Byte) : anyByte.matchesByte b = true := by
  simp [ByteRule.matchesByte, anyByte]

@[simp] theorem anyByte_extract (b : Byte) : anyByte.extract b = b := by
  simp [ByteRule.extract, anyByte, and_0xFF]

/-- A fixed rule matches its one byte (R70). -/
theorem fixed_matches_iff (c b : Byte) : (fixed c).matchesByte b = true ↔ b = c := by
  simp [ByteRule.matchesByte, fixed, and_0xFF]

/-! ## Patterns -/

/-- The bytes fit a pattern: each known byte is there, and the string is long enough. -/
def Fits : List (Option Byte) → List Byte → Prop
  | [], _ => True
  | _ :: _, [] => False
  | o :: p, b :: bs => (∀ k, o = some k → b = k) ∧ Fits p bs

/-- The rule of an immediate or displacement byte, which matches every byte (R70). -/
def ByteRule.matchesAll (r : ByteRule) : Bool := r.const == 0x00 && r.varmask == 0xFF && r.pred.isNone

theorem matchesByte_of_matchesAll {r : ByteRule} (h : r.matchesAll = true) (b : Byte) : r.matchesByte b = true := by
  simp only [ByteRule.matchesAll, Bool.and_eq_true, beq_iff_eq, Option.isNone_iff_eq_none] at h
  simp [ByteRule.matchesByte, h]

/-- What a pattern says about one rule on one byte, when it says anything. -/
def certainByte (r : ByteRule) : Option Byte → Option Bool
  | some b => some (r.matchesByte b)
  | none => if r.matchesAll then some true else none

/-- What a pattern says about a rule list, when it says anything. -/
def certainMatch : List ByteRule → List (Option Byte) → Option Bool
  | [], _ => some true
  | _ :: _, [] => none
  | r :: rs, o :: p =>
    match certainByte r o with
    | some true => certainMatch rs p
    | some false => some false
    | none => none

/-- The place in the catalog of the descriptor a pattern selects, when the pattern decides it. -/
def certainSelect : Catalog α → List (Option Byte) → Option Nat
  | [], _ => none
  | d :: ds, p =>
    match certainMatch d.rules p with
    | some true => some 0
    | some false => (certainSelect ds p).map (· + 1)
    | none => none

theorem certainByte_sound {r : ByteRule} {o : Option Byte} {b : Byte} {v : Bool} (h : certainByte r o = some v)
    (hb : ∀ k, o = some k → b = k) : r.matchesByte b = v := by
  cases o with
  | some k =>
    rw [hb k rfl]
    simpa [certainByte] using h
  | none =>
    simp only [certainByte] at h
    split at h
    · next hr => rw [matchesByte_of_matchesAll hr, Option.some.inj h]
    · simp at h

theorem certainMatch_sound {rs : List ByteRule} {p : List (Option Byte)} {bytes : List Byte} {v : Bool}
    (h : certainMatch rs p = some v) (hp : Fits p bytes) : rulesMatch rs bytes = v := by
  induction rs generalizing p bytes with
  | nil => simpa [certainMatch, rulesMatch] using h
  | cons r rs ih =>
    cases p with
    | nil => simp [certainMatch] at h
    | cons o p =>
      cases bytes with
      | nil => exact hp.elim
      | cons b bs =>
        obtain ⟨hb, hbs⟩ := hp
        simp only [certainMatch] at h
        split at h
        · next hc => rw [rulesMatch, certainByte_sound hc hb, ih h hbs, Bool.true_and]
        · next hc => rw [rulesMatch, certainByte_sound hc hb, Bool.false_and, ← Option.some.inj h]
        · simp at h

/-- A pattern that decides the selection decides it for every byte string that fits. -/
theorem select_of_certain {cat : Catalog α} {p : List (Option Byte)} {bytes : List Byte} {n : Nat}
    (h : certainSelect cat p = some n) (hp : Fits p bytes) : selectDescriptor cat bytes = cat[n]? := by
  induction cat generalizing n with
  | nil => simp [certainSelect] at h
  | cons d ds ih =>
    simp only [certainSelect] at h
    split at h
    · next hc =>
      rw [← Option.some.inj h, selectDescriptor, Descriptor.matches, certainMatch_sound hc hp]
      rfl
    · next hc =>
      obtain ⟨m, hm, rfl⟩ := Option.map_eq_some_iff.mp h
      rw [selectDescriptor, Descriptor.matches, certainMatch_sound hc hp, if_neg (by decide), ih hm]
      rfl
    · simp at h

/-! ## Selection -/

theorem selectDescriptor_some {cat : Catalog α} {bytes : List Byte} {d : Descriptor α}
    (h : selectDescriptor cat bytes = some d) : d ∈ cat ∧ d.matches bytes = true := by
  induction cat with
  | nil => simp [selectDescriptor] at h
  | cons e es ih =>
    rw [selectDescriptor] at h
    split at h
    · next hm =>
      rw [← Option.some.inj h]
      exact ⟨List.mem_cons_self, hm⟩
    · exact ⟨List.mem_cons_of_mem _ (ih h).1, (ih h).2⟩

theorem selectDescriptor_none {cat : Catalog α} {bytes : List Byte} :
    selectDescriptor cat bytes = none ↔ ∀ d ∈ cat, d.matches bytes = false := by
  induction cat with
  | nil => simp [selectDescriptor]
  | cons e es ih => cases he : e.matches bytes <;> simp [selectDescriptor, he, ih]

/-! ## Giving the routines in another form

Nothing of the matcher looks at a routine, so a catalog with its routines replaced selects and fetches alike. -/

@[simp] theorem Descriptor.map_mnemonic (f : α → β) (d : Descriptor α) : (d.map f).mnemonic = d.mnemonic := rfl
@[simp] theorem Descriptor.map_rules (f : α → β) (d : Descriptor α) : (d.map f).rules = d.rules := rfl
@[simp] theorem Descriptor.map_length (f : α → β) (d : Descriptor α) : (d.map f).length = d.length := rfl
@[simp] theorem Descriptor.map_routine (f : α → β) (d : Descriptor α) (x : List Byte) :
    (d.map f).routine x = (d.routine x).map f := rfl
@[simp] theorem Descriptor.map_cycles (f : α → β) (d : Descriptor α) : (d.map f).cycles = d.cycles := rfl
@[simp] theorem Descriptor.map_matches (f : α → β) (d : Descriptor α) : (d.map f).matches = d.matches := rfl
@[simp] theorem Descriptor.map_wf (f : α → β) (d : Descriptor α) : (d.map f).wf = d.wf := rfl

theorem selectDescriptor_map (f : α → β) (cat : Catalog α) (bytes : List Byte) :
    selectDescriptor (cat.map (Descriptor.map f)) bytes = (selectDescriptor cat bytes).map (Descriptor.map f) := by
  induction cat with
  | nil => rfl
  | cons d ds ih =>
    rw [List.map_cons, selectDescriptor, selectDescriptor, ih, Descriptor.map_matches]
    split <;> rfl

theorem fetchCount_map (f : α → β) (cat : Catalog α) (bytes : List Byte) :
    fetchCount (cat.map (Descriptor.map f)) bytes = fetchCount cat bytes := by
  induction cat with
  | nil => rfl
  | cons d ds ih =>
    rw [List.map_cons, fetchCount, fetchCount, ih]
    rfl

theorem maxLength_map (f : α → β) (cat : Catalog α) : Catalog.maxLength (cat.map (Descriptor.map f)) = cat.maxLength := by
  induction cat with
  | nil => rfl
  | cons d ds ih =>
    rw [List.map_cons, Catalog.maxLength, Catalog.maxLength, ih]
    rfl

/-! ## Decoding -/

/-- What decoding a selected descriptor gives. -/
theorem decodeWith_of_select {cat : Catalog Instr} {bytes : List Byte} {d : Descriptor Instr} {i : Instr}
    (h : selectDescriptor cat bytes = some d) (hi : d.routine (extractAll d.rules bytes) = some i) :
    decodeWith cat bytes = .ok (i, bytes.drop d.length) := by
  rw [decodeWith, h]
  simp only [hi]

/-- A decoded instruction comes from a descriptor of the catalog that matched. -/
theorem select_of_decodeWith {cat : Catalog Instr} {bytes rest : List Byte} {i : Instr}
    (h : decodeWith cat bytes = .ok (i, rest)) :
    ∃ d ∈ cat, selectDescriptor cat bytes = some d ∧ d.matches bytes = true ∧
      d.routine (extractAll d.rules bytes) = some i ∧ rest = bytes.drop d.length := by
  rw [decodeWith] at h
  split at h
  · next d hd =>
    split at h
    · next j hj =>
      obtain ⟨rfl, rfl⟩ := Prod.mk.inj (Except.ok.inj h)
      exact ⟨d, (selectDescriptor_some hd).1, hd, (selectDescriptor_some hd).2, hj, rfl⟩
    · simp at h
  · split at h <;> simp at h

/-- A match needs as many bytes as there are rules. -/
theorem length_of_rulesMatch {rs : List ByteRule} {bytes : List Byte} (h : rulesMatch rs bytes = true) :
    rs.length ≤ bytes.length := by
  induction rs generalizing bytes with
  | nil => simp
  | cons r rs ih =>
    cases bytes with
    | nil => simp [rulesMatch] at h
    | cons b bs =>
      simp only [rulesMatch, Bool.and_eq_true] at h
      simpa using ih h.2

/-- A match looks at no byte past the rules. -/
theorem rulesMatch_append {rs : List ByteRule} {bytes more : List Byte} (h : rulesMatch rs bytes = true) :
    rulesMatch rs (bytes ++ more) = true := by
  induction rs generalizing bytes with
  | nil => rfl
  | cons r rs ih =>
    cases bytes with
    | nil => simp [rulesMatch] at h
    | cons b bs =>
      simp only [rulesMatch, Bool.and_eq_true, List.cons_append] at h ⊢
      exact ⟨h.1, ih h.2⟩

/-- A descriptor matches in full exactly when all its rules are leading matches. -/
theorem rulesMatch_iff_leadingMatches {rs : List ByteRule} {bytes : List Byte} :
    rulesMatch rs bytes = true ↔ leadingMatches rs bytes = rs.length := by
  induction rs generalizing bytes with
  | nil => simp [rulesMatch, leadingMatches]
  | cons r rs ih =>
    cases bytes with
    | nil => simp [rulesMatch, leadingMatches]
    | cons b bs => cases hr : r.matchesByte b <;> simp [rulesMatch, leadingMatches, hr, ih]

theorem leadingMatches_le (rs : List ByteRule) (bytes : List Byte) : leadingMatches rs bytes ≤ rs.length := by
  induction rs generalizing bytes with
  | nil => simp [leadingMatches]
  | cons r rs ih =>
    cases bytes with
    | nil => simp [leadingMatches]
    | cons b bs =>
      rw [leadingMatches]
      split
      · exact Nat.succ_le_succ (ih bs)
      · exact Nat.zero_le _

/-- A descriptor is fetched whole before it is selected (R81). -/
theorem length_le_fetchCount {cat : Catalog α} {bytes : List Byte} {d : Descriptor α}
    (h : selectDescriptor cat bytes = some d) : d.length ≤ fetchCount cat bytes := by
  induction cat with
  | nil => simp [selectDescriptor] at h
  | cons e es ih =>
    rw [selectDescriptor] at h
    rw [fetchCount]
    split at h
    · next hm =>
      obtain rfl := Option.some.inj h
      have hl : leadingMatches e.rules bytes = e.length := rulesMatch_iff_leadingMatches.mp hm
      rw [Descriptor.bytesTested, hl]
      omega
    · next hm =>
      rw [if_neg hm]
      exact (ih h).trans (Nat.le_max_right ..)

/-- The extracted list has one entry per rule, as far as the bytes go (R73). -/
theorem getElem?_extractAll (rs : List ByteRule) (bytes : List Byte) (k : Nat) :
    (extractAll rs bytes)[k]? = rs[k]?.bind fun r => bytes[k]?.map r.extract := by
  induction rs generalizing bytes k with
  | nil => simp [extractAll]
  | cons r rs ih => cases bytes <;> cases k <;> simp [extractAll, ih]

/-! ## Selectors -/

@[simp] theorem R8.ofSel_sel (r : R8) : R8.ofSel r.sel = some r := by cases r <;> rfl
@[simp] theorem Rp.ofSel_sel (p : Rp) : Rp.ofSel p.sel = p := by cases p <;> rfl
@[simp] theorem Rp2.ofSel_sel (p : Rp2) : Rp2.ofSel p.sel = p := by cases p <;> rfl
@[simp] theorem Rpx.ofSel_sel (p : Rpx) : Rpx.ofSel p.sel = p := by cases p <;> rfl
@[simp] theorem Rpy.ofSel_sel (p : Rpy) : Rpy.ofSel p.sel = p := by cases p <;> rfl
@[simp] theorem Cond.ofSel_sel (cc : Cond) : Cond.ofSel cc.sel = cc := by cases cc <;> rfl

theorem Cond.ofSel2_sel2 {cc : Cond} (h : cc.short = true) : Cond.ofSel2 cc.sel2 = cc := by
  cases cc <;> first | rfl | simp [Cond.short] at h

/-- Every selector but the placeholder names a register (R84). -/
theorem R8.ofSel_of_ne {k : BitVec 3} (h : k ≠ 6) : ∃ r, R8.ofSel k = some r ∧ r.sel = k := by
  revert k
  decide

theorem Rp.sel_ofSel (k : BitVec 2) : (Rp.ofSel k).sel = k := by revert k; decide
theorem Rp2.sel_ofSel (k : BitVec 2) : (Rp2.ofSel k).sel = k := by revert k; decide
theorem Rpx.sel_ofSel (k : BitVec 2) : (Rpx.ofSel k).sel = k := by revert k; decide
theorem Rpy.sel_ofSel (k : BitVec 2) : (Rpy.ofSel k).sel = k := by revert k; decide
theorem Cond.sel_ofSel (k : BitVec 3) : (Cond.ofSel k).sel = k := by revert k; decide

end Sys2Proof
end

