-- ==== Sys2Proof/Laws/State.lean ====
section
/-! SUPPORT. One lemma per field per update: what each named update of the state leaves alone, true by rfl or by cases
on the register, and what it writes. No later proof unfolds a record update. -/

namespace Sys2Proof.Machine.State

variable (s : State)

/-! setA -/

@[simp] theorem setA_bc (v : Byte) : (s.setA v).bc = s.bc := rfl
@[simp] theorem setA_de (v : Byte) : (s.setA v).de = s.de := rfl
@[simp] theorem setA_hl (v : Byte) : (s.setA v).hl = s.hl := rfl
@[simp] theorem setA_af' (v : Byte) : (s.setA v).af' = s.af' := rfl
@[simp] theorem setA_bc' (v : Byte) : (s.setA v).bc' = s.bc' := rfl
@[simp] theorem setA_de' (v : Byte) : (s.setA v).de' = s.de' := rfl
@[simp] theorem setA_hl' (v : Byte) : (s.setA v).hl' = s.hl' := rfl
@[simp] theorem setA_ix (v : Byte) : (s.setA v).ix = s.ix := rfl
@[simp] theorem setA_iy (v : Byte) : (s.setA v).iy = s.iy := rfl
@[simp] theorem setA_sp (v : Byte) : (s.setA v).sp = s.sp := rfl
@[simp] theorem setA_pc (v : Byte) : (s.setA v).pc = s.pc := rfl
@[simp] theorem setA_ir (v : Byte) : (s.setA v).ir = s.ir := rfl
@[simp] theorem setA_iff1 (v : Byte) : (s.setA v).iff1 = s.iff1 := rfl
@[simp] theorem setA_iff2 (v : Byte) : (s.setA v).iff2 = s.iff2 := rfl
@[simp] theorem setA_mem (v : Byte) : (s.setA v).mem = s.mem := rfl
@[simp] theorem setA_af (v : Byte) : (s.setA v).af = wordOf v s.f := rfl
@[simp] theorem setA_a (v : Byte) : (s.setA v).a = v := by simp [setA, a]
@[simp] theorem setA_f (v : Byte) : (s.setA v).f = s.f := by simp [setA, f]
@[simp] theorem setA_b (v : Byte) : (s.setA v).b = s.b := rfl
@[simp] theorem setA_c (v : Byte) : (s.setA v).c = s.c := rfl
@[simp] theorem setA_d (v : Byte) : (s.setA v).d = s.d := rfl
@[simp] theorem setA_e (v : Byte) : (s.setA v).e = s.e := rfl
@[simp] theorem setA_h (v : Byte) : (s.setA v).h = s.h := rfl
@[simp] theorem setA_l (v : Byte) : (s.setA v).l = s.l := rfl
@[simp] theorem setA_i (v : Byte) : (s.setA v).i = s.i := rfl
@[simp] theorem setA_r (v : Byte) : (s.setA v).r = s.r := rfl

/-! setF -/

@[simp] theorem setF_bc (v : Byte) : (s.setF v).bc = s.bc := rfl
@[simp] theorem setF_de (v : Byte) : (s.setF v).de = s.de := rfl
@[simp] theorem setF_hl (v : Byte) : (s.setF v).hl = s.hl := rfl
@[simp] theorem setF_af' (v : Byte) : (s.setF v).af' = s.af' := rfl
@[simp] theorem setF_bc' (v : Byte) : (s.setF v).bc' = s.bc' := rfl
@[simp] theorem setF_de' (v : Byte) : (s.setF v).de' = s.de' := rfl
@[simp] theorem setF_hl' (v : Byte) : (s.setF v).hl' = s.hl' := rfl
@[simp] theorem setF_ix (v : Byte) : (s.setF v).ix = s.ix := rfl
@[simp] theorem setF_iy (v : Byte) : (s.setF v).iy = s.iy := rfl
@[simp] theorem setF_sp (v : Byte) : (s.setF v).sp = s.sp := rfl
@[simp] theorem setF_pc (v : Byte) : (s.setF v).pc = s.pc := rfl
@[simp] theorem setF_ir (v : Byte) : (s.setF v).ir = s.ir := rfl
@[simp] theorem setF_iff1 (v : Byte) : (s.setF v).iff1 = s.iff1 := rfl
@[simp] theorem setF_iff2 (v : Byte) : (s.setF v).iff2 = s.iff2 := rfl
@[simp] theorem setF_mem (v : Byte) : (s.setF v).mem = s.mem := rfl
@[simp] theorem setF_af (v : Byte) : (s.setF v).af = wordOf s.a v := rfl
@[simp] theorem setF_f (v : Byte) : (s.setF v).f = v := by simp [setF, f]
@[simp] theorem setF_a (v : Byte) : (s.setF v).a = s.a := by simp [setF, a]
@[simp] theorem setF_b (v : Byte) : (s.setF v).b = s.b := rfl
@[simp] theorem setF_c (v : Byte) : (s.setF v).c = s.c := rfl
@[simp] theorem setF_d (v : Byte) : (s.setF v).d = s.d := rfl
@[simp] theorem setF_e (v : Byte) : (s.setF v).e = s.e := rfl
@[simp] theorem setF_h (v : Byte) : (s.setF v).h = s.h := rfl
@[simp] theorem setF_l (v : Byte) : (s.setF v).l = s.l := rfl
@[simp] theorem setF_i (v : Byte) : (s.setF v).i = s.i := rfl
@[simp] theorem setF_r (v : Byte) : (s.setF v).r = s.r := rfl

/-! setB -/

@[simp] theorem setB_af (v : Byte) : (s.setB v).af = s.af := rfl
@[simp] theorem setB_de (v : Byte) : (s.setB v).de = s.de := rfl
@[simp] theorem setB_hl (v : Byte) : (s.setB v).hl = s.hl := rfl
@[simp] theorem setB_af' (v : Byte) : (s.setB v).af' = s.af' := rfl
@[simp] theorem setB_bc' (v : Byte) : (s.setB v).bc' = s.bc' := rfl
@[simp] theorem setB_de' (v : Byte) : (s.setB v).de' = s.de' := rfl
@[simp] theorem setB_hl' (v : Byte) : (s.setB v).hl' = s.hl' := rfl
@[simp] theorem setB_ix (v : Byte) : (s.setB v).ix = s.ix := rfl
@[simp] theorem setB_iy (v : Byte) : (s.setB v).iy = s.iy := rfl
@[simp] theorem setB_sp (v : Byte) : (s.setB v).sp = s.sp := rfl
@[simp] theorem setB_pc (v : Byte) : (s.setB v).pc = s.pc := rfl
@[simp] theorem setB_ir (v : Byte) : (s.setB v).ir = s.ir := rfl
@[simp] theorem setB_iff1 (v : Byte) : (s.setB v).iff1 = s.iff1 := rfl
@[simp] theorem setB_iff2 (v : Byte) : (s.setB v).iff2 = s.iff2 := rfl
@[simp] theorem setB_mem (v : Byte) : (s.setB v).mem = s.mem := rfl
@[simp] theorem setB_bc (v : Byte) : (s.setB v).bc = wordOf v s.c := rfl
@[simp] theorem setB_b (v : Byte) : (s.setB v).b = v := by simp [setB, b]
@[simp] theorem setB_c (v : Byte) : (s.setB v).c = s.c := by simp [setB, c]
@[simp] theorem setB_a (v : Byte) : (s.setB v).a = s.a := rfl
@[simp] theorem setB_f (v : Byte) : (s.setB v).f = s.f := rfl
@[simp] theorem setB_d (v : Byte) : (s.setB v).d = s.d := rfl
@[simp] theorem setB_e (v : Byte) : (s.setB v).e = s.e := rfl
@[simp] theorem setB_h (v : Byte) : (s.setB v).h = s.h := rfl
@[simp] theorem setB_l (v : Byte) : (s.setB v).l = s.l := rfl
@[simp] theorem setB_i (v : Byte) : (s.setB v).i = s.i := rfl
@[simp] theorem setB_r (v : Byte) : (s.setB v).r = s.r := rfl

/-! setC -/

@[simp] theorem setC_af (v : Byte) : (s.setC v).af = s.af := rfl
@[simp] theorem setC_de (v : Byte) : (s.setC v).de = s.de := rfl
@[simp] theorem setC_hl (v : Byte) : (s.setC v).hl = s.hl := rfl
@[simp] theorem setC_af' (v : Byte) : (s.setC v).af' = s.af' := rfl
@[simp] theorem setC_bc' (v : Byte) : (s.setC v).bc' = s.bc' := rfl
@[simp] theorem setC_de' (v : Byte) : (s.setC v).de' = s.de' := rfl
@[simp] theorem setC_hl' (v : Byte) : (s.setC v).hl' = s.hl' := rfl
@[simp] theorem setC_ix (v : Byte) : (s.setC v).ix = s.ix := rfl
@[simp] theorem setC_iy (v : Byte) : (s.setC v).iy = s.iy := rfl
@[simp] theorem setC_sp (v : Byte) : (s.setC v).sp = s.sp := rfl
@[simp] theorem setC_pc (v : Byte) : (s.setC v).pc = s.pc := rfl
@[simp] theorem setC_ir (v : Byte) : (s.setC v).ir = s.ir := rfl
@[simp] theorem setC_iff1 (v : Byte) : (s.setC v).iff1 = s.iff1 := rfl
@[simp] theorem setC_iff2 (v : Byte) : (s.setC v).iff2 = s.iff2 := rfl
@[simp] theorem setC_mem (v : Byte) : (s.setC v).mem = s.mem := rfl
@[simp] theorem setC_bc (v : Byte) : (s.setC v).bc = wordOf s.b v := rfl
@[simp] theorem setC_c (v : Byte) : (s.setC v).c = v := by simp [setC, c]
@[simp] theorem setC_b (v : Byte) : (s.setC v).b = s.b := by simp [setC, b]
@[simp] theorem setC_a (v : Byte) : (s.setC v).a = s.a := rfl
@[simp] theorem setC_f (v : Byte) : (s.setC v).f = s.f := rfl
@[simp] theorem setC_d (v : Byte) : (s.setC v).d = s.d := rfl
@[simp] theorem setC_e (v : Byte) : (s.setC v).e = s.e := rfl
@[simp] theorem setC_h (v : Byte) : (s.setC v).h = s.h := rfl
@[simp] theorem setC_l (v : Byte) : (s.setC v).l = s.l := rfl
@[simp] theorem setC_i (v : Byte) : (s.setC v).i = s.i := rfl
@[simp] theorem setC_r (v : Byte) : (s.setC v).r = s.r := rfl

/-! setD -/

@[simp] theorem setD_af (v : Byte) : (s.setD v).af = s.af := rfl
@[simp] theorem setD_bc (v : Byte) : (s.setD v).bc = s.bc := rfl
@[simp] theorem setD_hl (v : Byte) : (s.setD v).hl = s.hl := rfl
@[simp] theorem setD_af' (v : Byte) : (s.setD v).af' = s.af' := rfl
@[simp] theorem setD_bc' (v : Byte) : (s.setD v).bc' = s.bc' := rfl
@[simp] theorem setD_de' (v : Byte) : (s.setD v).de' = s.de' := rfl
@[simp] theorem setD_hl' (v : Byte) : (s.setD v).hl' = s.hl' := rfl
@[simp] theorem setD_ix (v : Byte) : (s.setD v).ix = s.ix := rfl
@[simp] theorem setD_iy (v : Byte) : (s.setD v).iy = s.iy := rfl
@[simp] theorem setD_sp (v : Byte) : (s.setD v).sp = s.sp := rfl
@[simp] theorem setD_pc (v : Byte) : (s.setD v).pc = s.pc := rfl
@[simp] theorem setD_ir (v : Byte) : (s.setD v).ir = s.ir := rfl
@[simp] theorem setD_iff1 (v : Byte) : (s.setD v).iff1 = s.iff1 := rfl
@[simp] theorem setD_iff2 (v : Byte) : (s.setD v).iff2 = s.iff2 := rfl
@[simp] theorem setD_mem (v : Byte) : (s.setD v).mem = s.mem := rfl
@[simp] theorem setD_de (v : Byte) : (s.setD v).de = wordOf v s.e := rfl
@[simp] theorem setD_d (v : Byte) : (s.setD v).d = v := by simp [setD, d]
@[simp] theorem setD_e (v : Byte) : (s.setD v).e = s.e := by simp [setD, e]
@[simp] theorem setD_a (v : Byte) : (s.setD v).a = s.a := rfl
@[simp] theorem setD_f (v : Byte) : (s.setD v).f = s.f := rfl
@[simp] theorem setD_b (v : Byte) : (s.setD v).b = s.b := rfl
@[simp] theorem setD_c (v : Byte) : (s.setD v).c = s.c := rfl
@[simp] theorem setD_h (v : Byte) : (s.setD v).h = s.h := rfl
@[simp] theorem setD_l (v : Byte) : (s.setD v).l = s.l := rfl
@[simp] theorem setD_i (v : Byte) : (s.setD v).i = s.i := rfl
@[simp] theorem setD_r (v : Byte) : (s.setD v).r = s.r := rfl

/-! setE -/

@[simp] theorem setE_af (v : Byte) : (s.setE v).af = s.af := rfl
@[simp] theorem setE_bc (v : Byte) : (s.setE v).bc = s.bc := rfl
@[simp] theorem setE_hl (v : Byte) : (s.setE v).hl = s.hl := rfl
@[simp] theorem setE_af' (v : Byte) : (s.setE v).af' = s.af' := rfl
@[simp] theorem setE_bc' (v : Byte) : (s.setE v).bc' = s.bc' := rfl
@[simp] theorem setE_de' (v : Byte) : (s.setE v).de' = s.de' := rfl
@[simp] theorem setE_hl' (v : Byte) : (s.setE v).hl' = s.hl' := rfl
@[simp] theorem setE_ix (v : Byte) : (s.setE v).ix = s.ix := rfl
@[simp] theorem setE_iy (v : Byte) : (s.setE v).iy = s.iy := rfl
@[simp] theorem setE_sp (v : Byte) : (s.setE v).sp = s.sp := rfl
@[simp] theorem setE_pc (v : Byte) : (s.setE v).pc = s.pc := rfl
@[simp] theorem setE_ir (v : Byte) : (s.setE v).ir = s.ir := rfl
@[simp] theorem setE_iff1 (v : Byte) : (s.setE v).iff1 = s.iff1 := rfl
@[simp] theorem setE_iff2 (v : Byte) : (s.setE v).iff2 = s.iff2 := rfl
@[simp] theorem setE_mem (v : Byte) : (s.setE v).mem = s.mem := rfl
@[simp] theorem setE_de (v : Byte) : (s.setE v).de = wordOf s.d v := rfl
@[simp] theorem setE_e (v : Byte) : (s.setE v).e = v := by simp [setE, e]
@[simp] theorem setE_d (v : Byte) : (s.setE v).d = s.d := by simp [setE, d]
@[simp] theorem setE_a (v : Byte) : (s.setE v).a = s.a := rfl
@[simp] theorem setE_f (v : Byte) : (s.setE v).f = s.f := rfl
@[simp] theorem setE_b (v : Byte) : (s.setE v).b = s.b := rfl
@[simp] theorem setE_c (v : Byte) : (s.setE v).c = s.c := rfl
@[simp] theorem setE_h (v : Byte) : (s.setE v).h = s.h := rfl
@[simp] theorem setE_l (v : Byte) : (s.setE v).l = s.l := rfl
@[simp] theorem setE_i (v : Byte) : (s.setE v).i = s.i := rfl
@[simp] theorem setE_r (v : Byte) : (s.setE v).r = s.r := rfl

/-! setH -/

@[simp] theorem setH_af (v : Byte) : (s.setH v).af = s.af := rfl
@[simp] theorem setH_bc (v : Byte) : (s.setH v).bc = s.bc := rfl
@[simp] theorem setH_de (v : Byte) : (s.setH v).de = s.de := rfl
@[simp] theorem setH_af' (v : Byte) : (s.setH v).af' = s.af' := rfl
@[simp] theorem setH_bc' (v : Byte) : (s.setH v).bc' = s.bc' := rfl
@[simp] theorem setH_de' (v : Byte) : (s.setH v).de' = s.de' := rfl
@[simp] theorem setH_hl' (v : Byte) : (s.setH v).hl' = s.hl' := rfl
@[simp] theorem setH_ix (v : Byte) : (s.setH v).ix = s.ix := rfl
@[simp] theorem setH_iy (v : Byte) : (s.setH v).iy = s.iy := rfl
@[simp] theorem setH_sp (v : Byte) : (s.setH v).sp = s.sp := rfl
@[simp] theorem setH_pc (v : Byte) : (s.setH v).pc = s.pc := rfl
@[simp] theorem setH_ir (v : Byte) : (s.setH v).ir = s.ir := rfl
@[simp] theorem setH_iff1 (v : Byte) : (s.setH v).iff1 = s.iff1 := rfl
@[simp] theorem setH_iff2 (v : Byte) : (s.setH v).iff2 = s.iff2 := rfl
@[simp] theorem setH_mem (v : Byte) : (s.setH v).mem = s.mem := rfl
@[simp] theorem setH_hl (v : Byte) : (s.setH v).hl = wordOf v s.l := rfl
@[simp] theorem setH_h (v : Byte) : (s.setH v).h = v := by simp [setH, h]
@[simp] theorem setH_l (v : Byte) : (s.setH v).l = s.l := by simp [setH, l]
@[simp] theorem setH_a (v : Byte) : (s.setH v).a = s.a := rfl
@[simp] theorem setH_f (v : Byte) : (s.setH v).f = s.f := rfl
@[simp] theorem setH_b (v : Byte) : (s.setH v).b = s.b := rfl
@[simp] theorem setH_c (v : Byte) : (s.setH v).c = s.c := rfl
@[simp] theorem setH_d (v : Byte) : (s.setH v).d = s.d := rfl
@[simp] theorem setH_e (v : Byte) : (s.setH v).e = s.e := rfl
@[simp] theorem setH_i (v : Byte) : (s.setH v).i = s.i := rfl
@[simp] theorem setH_r (v : Byte) : (s.setH v).r = s.r := rfl

/-! setL -/

@[simp] theorem setL_af (v : Byte) : (s.setL v).af = s.af := rfl
@[simp] theorem setL_bc (v : Byte) : (s.setL v).bc = s.bc := rfl
@[simp] theorem setL_de (v : Byte) : (s.setL v).de = s.de := rfl
@[simp] theorem setL_af' (v : Byte) : (s.setL v).af' = s.af' := rfl
@[simp] theorem setL_bc' (v : Byte) : (s.setL v).bc' = s.bc' := rfl
@[simp] theorem setL_de' (v : Byte) : (s.setL v).de' = s.de' := rfl
@[simp] theorem setL_hl' (v : Byte) : (s.setL v).hl' = s.hl' := rfl
@[simp] theorem setL_ix (v : Byte) : (s.setL v).ix = s.ix := rfl
@[simp] theorem setL_iy (v : Byte) : (s.setL v).iy = s.iy := rfl
@[simp] theorem setL_sp (v : Byte) : (s.setL v).sp = s.sp := rfl
@[simp] theorem setL_pc (v : Byte) : (s.setL v).pc = s.pc := rfl
@[simp] theorem setL_ir (v : Byte) : (s.setL v).ir = s.ir := rfl
@[simp] theorem setL_iff1 (v : Byte) : (s.setL v).iff1 = s.iff1 := rfl
@[simp] theorem setL_iff2 (v : Byte) : (s.setL v).iff2 = s.iff2 := rfl
@[simp] theorem setL_mem (v : Byte) : (s.setL v).mem = s.mem := rfl
@[simp] theorem setL_hl (v : Byte) : (s.setL v).hl = wordOf s.h v := rfl
@[simp] theorem setL_l (v : Byte) : (s.setL v).l = v := by simp [setL, l]
@[simp] theorem setL_h (v : Byte) : (s.setL v).h = s.h := by simp [setL, h]
@[simp] theorem setL_a (v : Byte) : (s.setL v).a = s.a := rfl
@[simp] theorem setL_f (v : Byte) : (s.setL v).f = s.f := rfl
@[simp] theorem setL_b (v : Byte) : (s.setL v).b = s.b := rfl
@[simp] theorem setL_c (v : Byte) : (s.setL v).c = s.c := rfl
@[simp] theorem setL_d (v : Byte) : (s.setL v).d = s.d := rfl
@[simp] theorem setL_e (v : Byte) : (s.setL v).e = s.e := rfl
@[simp] theorem setL_i (v : Byte) : (s.setL v).i = s.i := rfl
@[simp] theorem setL_r (v : Byte) : (s.setL v).r = s.r := rfl

/-! setI -/

@[simp] theorem setI_af (v : Byte) : (s.setI v).af = s.af := rfl
@[simp] theorem setI_bc (v : Byte) : (s.setI v).bc = s.bc := rfl
@[simp] theorem setI_de (v : Byte) : (s.setI v).de = s.de := rfl
@[simp] theorem setI_hl (v : Byte) : (s.setI v).hl = s.hl := rfl
@[simp] theorem setI_af' (v : Byte) : (s.setI v).af' = s.af' := rfl
@[simp] theorem setI_bc' (v : Byte) : (s.setI v).bc' = s.bc' := rfl
@[simp] theorem setI_de' (v : Byte) : (s.setI v).de' = s.de' := rfl
@[simp] theorem setI_hl' (v : Byte) : (s.setI v).hl' = s.hl' := rfl
@[simp] theorem setI_ix (v : Byte) : (s.setI v).ix = s.ix := rfl
@[simp] theorem setI_iy (v : Byte) : (s.setI v).iy = s.iy := rfl
@[simp] theorem setI_sp (v : Byte) : (s.setI v).sp = s.sp := rfl
@[simp] theorem setI_pc (v : Byte) : (s.setI v).pc = s.pc := rfl
@[simp] theorem setI_iff1 (v : Byte) : (s.setI v).iff1 = s.iff1 := rfl
@[simp] theorem setI_iff2 (v : Byte) : (s.setI v).iff2 = s.iff2 := rfl
@[simp] theorem setI_mem (v : Byte) : (s.setI v).mem = s.mem := rfl
@[simp] theorem setI_ir (v : Byte) : (s.setI v).ir = wordOf v s.r := rfl
@[simp] theorem setI_i (v : Byte) : (s.setI v).i = v := by simp [setI, i]
@[simp] theorem setI_r (v : Byte) : (s.setI v).r = s.r := by simp [setI, r]
@[simp] theorem setI_a (v : Byte) : (s.setI v).a = s.a := rfl
@[simp] theorem setI_f (v : Byte) : (s.setI v).f = s.f := rfl
@[simp] theorem setI_b (v : Byte) : (s.setI v).b = s.b := rfl
@[simp] theorem setI_c (v : Byte) : (s.setI v).c = s.c := rfl
@[simp] theorem setI_d (v : Byte) : (s.setI v).d = s.d := rfl
@[simp] theorem setI_e (v : Byte) : (s.setI v).e = s.e := rfl
@[simp] theorem setI_h (v : Byte) : (s.setI v).h = s.h := rfl
@[simp] theorem setI_l (v : Byte) : (s.setI v).l = s.l := rfl

/-! setR -/

@[simp] theorem setR_af (v : Byte) : (s.setR v).af = s.af := rfl
@[simp] theorem setR_bc (v : Byte) : (s.setR v).bc = s.bc := rfl
@[simp] theorem setR_de (v : Byte) : (s.setR v).de = s.de := rfl
@[simp] theorem setR_hl (v : Byte) : (s.setR v).hl = s.hl := rfl
@[simp] theorem setR_af' (v : Byte) : (s.setR v).af' = s.af' := rfl
@[simp] theorem setR_bc' (v : Byte) : (s.setR v).bc' = s.bc' := rfl
@[simp] theorem setR_de' (v : Byte) : (s.setR v).de' = s.de' := rfl
@[simp] theorem setR_hl' (v : Byte) : (s.setR v).hl' = s.hl' := rfl
@[simp] theorem setR_ix (v : Byte) : (s.setR v).ix = s.ix := rfl
@[simp] theorem setR_iy (v : Byte) : (s.setR v).iy = s.iy := rfl
@[simp] theorem setR_sp (v : Byte) : (s.setR v).sp = s.sp := rfl
@[simp] theorem setR_pc (v : Byte) : (s.setR v).pc = s.pc := rfl
@[simp] theorem setR_iff1 (v : Byte) : (s.setR v).iff1 = s.iff1 := rfl
@[simp] theorem setR_iff2 (v : Byte) : (s.setR v).iff2 = s.iff2 := rfl
@[simp] theorem setR_mem (v : Byte) : (s.setR v).mem = s.mem := rfl
@[simp] theorem setR_ir (v : Byte) : (s.setR v).ir = wordOf s.i v := rfl
@[simp] theorem setR_r (v : Byte) : (s.setR v).r = v := by simp [setR, r]
@[simp] theorem setR_i (v : Byte) : (s.setR v).i = s.i := by simp [setR, i]
@[simp] theorem setR_a (v : Byte) : (s.setR v).a = s.a := rfl
@[simp] theorem setR_f (v : Byte) : (s.setR v).f = s.f := rfl
@[simp] theorem setR_b (v : Byte) : (s.setR v).b = s.b := rfl
@[simp] theorem setR_c (v : Byte) : (s.setR v).c = s.c := rfl
@[simp] theorem setR_d (v : Byte) : (s.setR v).d = s.d := rfl
@[simp] theorem setR_e (v : Byte) : (s.setR v).e = s.e := rfl
@[simp] theorem setR_h (v : Byte) : (s.setR v).h = s.h := rfl
@[simp] theorem setR_l (v : Byte) : (s.setR v).l = s.l := rfl

/-! setPc -/

@[simp] theorem setPc_af (w : Word) : (s.setPc w).af = s.af := rfl
@[simp] theorem setPc_bc (w : Word) : (s.setPc w).bc = s.bc := rfl
@[simp] theorem setPc_de (w : Word) : (s.setPc w).de = s.de := rfl
@[simp] theorem setPc_hl (w : Word) : (s.setPc w).hl = s.hl := rfl
@[simp] theorem setPc_af' (w : Word) : (s.setPc w).af' = s.af' := rfl
@[simp] theorem setPc_bc' (w : Word) : (s.setPc w).bc' = s.bc' := rfl
@[simp] theorem setPc_de' (w : Word) : (s.setPc w).de' = s.de' := rfl
@[simp] theorem setPc_hl' (w : Word) : (s.setPc w).hl' = s.hl' := rfl
@[simp] theorem setPc_ix (w : Word) : (s.setPc w).ix = s.ix := rfl
@[simp] theorem setPc_iy (w : Word) : (s.setPc w).iy = s.iy := rfl
@[simp] theorem setPc_sp (w : Word) : (s.setPc w).sp = s.sp := rfl
@[simp] theorem setPc_ir (w : Word) : (s.setPc w).ir = s.ir := rfl
@[simp] theorem setPc_iff1 (w : Word) : (s.setPc w).iff1 = s.iff1 := rfl
@[simp] theorem setPc_iff2 (w : Word) : (s.setPc w).iff2 = s.iff2 := rfl
@[simp] theorem setPc_mem (w : Word) : (s.setPc w).mem = s.mem := rfl
@[simp] theorem setPc_a (w : Word) : (s.setPc w).a = s.a := rfl
@[simp] theorem setPc_f (w : Word) : (s.setPc w).f = s.f := rfl
@[simp] theorem setPc_b (w : Word) : (s.setPc w).b = s.b := rfl
@[simp] theorem setPc_c (w : Word) : (s.setPc w).c = s.c := rfl
@[simp] theorem setPc_d (w : Word) : (s.setPc w).d = s.d := rfl
@[simp] theorem setPc_e (w : Word) : (s.setPc w).e = s.e := rfl
@[simp] theorem setPc_h (w : Word) : (s.setPc w).h = s.h := rfl
@[simp] theorem setPc_l (w : Word) : (s.setPc w).l = s.l := rfl
@[simp] theorem setPc_i (w : Word) : (s.setPc w).i = s.i := rfl
@[simp] theorem setPc_r (w : Word) : (s.setPc w).r = s.r := rfl
@[simp] theorem setPc_pc (w : Word) : (s.setPc w).pc = w := rfl

/-! writeR8 -/

@[simp] theorem writeR8_af' (q : R8) (v : Byte) : (s.writeR8 q v).af' = s.af' := by cases q <;> rfl
@[simp] theorem writeR8_bc' (q : R8) (v : Byte) : (s.writeR8 q v).bc' = s.bc' := by cases q <;> rfl
@[simp] theorem writeR8_de' (q : R8) (v : Byte) : (s.writeR8 q v).de' = s.de' := by cases q <;> rfl
@[simp] theorem writeR8_hl' (q : R8) (v : Byte) : (s.writeR8 q v).hl' = s.hl' := by cases q <;> rfl
@[simp] theorem writeR8_ix (q : R8) (v : Byte) : (s.writeR8 q v).ix = s.ix := by cases q <;> rfl
@[simp] theorem writeR8_iy (q : R8) (v : Byte) : (s.writeR8 q v).iy = s.iy := by cases q <;> rfl
@[simp] theorem writeR8_sp (q : R8) (v : Byte) : (s.writeR8 q v).sp = s.sp := by cases q <;> rfl
@[simp] theorem writeR8_pc (q : R8) (v : Byte) : (s.writeR8 q v).pc = s.pc := by cases q <;> rfl
@[simp] theorem writeR8_ir (q : R8) (v : Byte) : (s.writeR8 q v).ir = s.ir := by cases q <;> rfl
@[simp] theorem writeR8_iff1 (q : R8) (v : Byte) : (s.writeR8 q v).iff1 = s.iff1 := by cases q <;> rfl
@[simp] theorem writeR8_iff2 (q : R8) (v : Byte) : (s.writeR8 q v).iff2 = s.iff2 := by cases q <;> rfl
@[simp] theorem writeR8_mem (q : R8) (v : Byte) : (s.writeR8 q v).mem = s.mem := by cases q <;> rfl
@[simp] theorem writeR8_i (q : R8) (v : Byte) : (s.writeR8 q v).i = s.i := by cases q <;> rfl
@[simp] theorem writeR8_r (q : R8) (v : Byte) : (s.writeR8 q v).r = s.r := by cases q <;> rfl
@[simp] theorem writeR8_f (q : R8) (v : Byte) : (s.writeR8 q v).f = s.f := by cases q <;> simp [writeR8]
@[simp] theorem readR8_writeR8 (q : R8) (v : Byte) : (s.writeR8 q v).readR8 q = v := by cases q <;> simp [writeR8, readR8]

/-! writeRp -/

@[simp] theorem writeRp_af (q : Rp) (w : Word) : (s.writeRp q w).af = s.af := by cases q <;> rfl
@[simp] theorem writeRp_af' (q : Rp) (w : Word) : (s.writeRp q w).af' = s.af' := by cases q <;> rfl
@[simp] theorem writeRp_bc' (q : Rp) (w : Word) : (s.writeRp q w).bc' = s.bc' := by cases q <;> rfl
@[simp] theorem writeRp_de' (q : Rp) (w : Word) : (s.writeRp q w).de' = s.de' := by cases q <;> rfl
@[simp] theorem writeRp_hl' (q : Rp) (w : Word) : (s.writeRp q w).hl' = s.hl' := by cases q <;> rfl
@[simp] theorem writeRp_ix (q : Rp) (w : Word) : (s.writeRp q w).ix = s.ix := by cases q <;> rfl
@[simp] theorem writeRp_iy (q : Rp) (w : Word) : (s.writeRp q w).iy = s.iy := by cases q <;> rfl
@[simp] theorem writeRp_pc (q : Rp) (w : Word) : (s.writeRp q w).pc = s.pc := by cases q <;> rfl
@[simp] theorem writeRp_ir (q : Rp) (w : Word) : (s.writeRp q w).ir = s.ir := by cases q <;> rfl
@[simp] theorem writeRp_iff1 (q : Rp) (w : Word) : (s.writeRp q w).iff1 = s.iff1 := by cases q <;> rfl
@[simp] theorem writeRp_iff2 (q : Rp) (w : Word) : (s.writeRp q w).iff2 = s.iff2 := by cases q <;> rfl
@[simp] theorem writeRp_mem (q : Rp) (w : Word) : (s.writeRp q w).mem = s.mem := by cases q <;> rfl
@[simp] theorem writeRp_a (q : Rp) (w : Word) : (s.writeRp q w).a = s.a := by cases q <;> rfl
@[simp] theorem writeRp_f (q : Rp) (w : Word) : (s.writeRp q w).f = s.f := by cases q <;> rfl
@[simp] theorem writeRp_i (q : Rp) (w : Word) : (s.writeRp q w).i = s.i := by cases q <;> rfl
@[simp] theorem writeRp_r (q : Rp) (w : Word) : (s.writeRp q w).r = s.r := by cases q <;> rfl
@[simp] theorem readRp_writeRp (q : Rp) (w : Word) : (s.writeRp q w).readRp q = w := by cases q <;> rfl

/-! writeRp2 -/

@[simp] theorem writeRp2_af' (q : Rp2) (w : Word) : (s.writeRp2 q w).af' = s.af' := by cases q <;> rfl
@[simp] theorem writeRp2_bc' (q : Rp2) (w : Word) : (s.writeRp2 q w).bc' = s.bc' := by cases q <;> rfl
@[simp] theorem writeRp2_de' (q : Rp2) (w : Word) : (s.writeRp2 q w).de' = s.de' := by cases q <;> rfl
@[simp] theorem writeRp2_hl' (q : Rp2) (w : Word) : (s.writeRp2 q w).hl' = s.hl' := by cases q <;> rfl
@[simp] theorem writeRp2_ix (q : Rp2) (w : Word) : (s.writeRp2 q w).ix = s.ix := by cases q <;> rfl
@[simp] theorem writeRp2_iy (q : Rp2) (w : Word) : (s.writeRp2 q w).iy = s.iy := by cases q <;> rfl
@[simp] theorem writeRp2_sp (q : Rp2) (w : Word) : (s.writeRp2 q w).sp = s.sp := by cases q <;> rfl
@[simp] theorem writeRp2_pc (q : Rp2) (w : Word) : (s.writeRp2 q w).pc = s.pc := by cases q <;> rfl
@[simp] theorem writeRp2_ir (q : Rp2) (w : Word) : (s.writeRp2 q w).ir = s.ir := by cases q <;> rfl
@[simp] theorem writeRp2_iff1 (q : Rp2) (w : Word) : (s.writeRp2 q w).iff1 = s.iff1 := by cases q <;> rfl
@[simp] theorem writeRp2_iff2 (q : Rp2) (w : Word) : (s.writeRp2 q w).iff2 = s.iff2 := by cases q <;> rfl
@[simp] theorem writeRp2_mem (q : Rp2) (w : Word) : (s.writeRp2 q w).mem = s.mem := by cases q <;> rfl
@[simp] theorem writeRp2_i (q : Rp2) (w : Word) : (s.writeRp2 q w).i = s.i := by cases q <;> rfl
@[simp] theorem writeRp2_r (q : Rp2) (w : Word) : (s.writeRp2 q w).r = s.r := by cases q <;> rfl
@[simp] theorem readRp2_writeRp2 (q : Rp2) (w : Word) : (s.writeRp2 q w).readRp2 q = w := by cases q <;> rfl

/-! memWrite8 -/

@[simp] theorem memWrite8_af (x : Word) (v : Byte) : (s.memWrite8 x v).af = s.af := rfl
@[simp] theorem memWrite8_bc (x : Word) (v : Byte) : (s.memWrite8 x v).bc = s.bc := rfl
@[simp] theorem memWrite8_de (x : Word) (v : Byte) : (s.memWrite8 x v).de = s.de := rfl
@[simp] theorem memWrite8_hl (x : Word) (v : Byte) : (s.memWrite8 x v).hl = s.hl := rfl
@[simp] theorem memWrite8_af' (x : Word) (v : Byte) : (s.memWrite8 x v).af' = s.af' := rfl
@[simp] theorem memWrite8_bc' (x : Word) (v : Byte) : (s.memWrite8 x v).bc' = s.bc' := rfl
@[simp] theorem memWrite8_de' (x : Word) (v : Byte) : (s.memWrite8 x v).de' = s.de' := rfl
@[simp] theorem memWrite8_hl' (x : Word) (v : Byte) : (s.memWrite8 x v).hl' = s.hl' := rfl
@[simp] theorem memWrite8_ix (x : Word) (v : Byte) : (s.memWrite8 x v).ix = s.ix := rfl
@[simp] theorem memWrite8_iy (x : Word) (v : Byte) : (s.memWrite8 x v).iy = s.iy := rfl
@[simp] theorem memWrite8_sp (x : Word) (v : Byte) : (s.memWrite8 x v).sp = s.sp := rfl
@[simp] theorem memWrite8_pc (x : Word) (v : Byte) : (s.memWrite8 x v).pc = s.pc := rfl
@[simp] theorem memWrite8_ir (x : Word) (v : Byte) : (s.memWrite8 x v).ir = s.ir := rfl
@[simp] theorem memWrite8_iff1 (x : Word) (v : Byte) : (s.memWrite8 x v).iff1 = s.iff1 := rfl
@[simp] theorem memWrite8_iff2 (x : Word) (v : Byte) : (s.memWrite8 x v).iff2 = s.iff2 := rfl
@[simp] theorem memWrite8_a (x : Word) (v : Byte) : (s.memWrite8 x v).a = s.a := rfl
@[simp] theorem memWrite8_f (x : Word) (v : Byte) : (s.memWrite8 x v).f = s.f := rfl
@[simp] theorem memWrite8_b (x : Word) (v : Byte) : (s.memWrite8 x v).b = s.b := rfl
@[simp] theorem memWrite8_c (x : Word) (v : Byte) : (s.memWrite8 x v).c = s.c := rfl
@[simp] theorem memWrite8_d (x : Word) (v : Byte) : (s.memWrite8 x v).d = s.d := rfl
@[simp] theorem memWrite8_e (x : Word) (v : Byte) : (s.memWrite8 x v).e = s.e := rfl
@[simp] theorem memWrite8_h (x : Word) (v : Byte) : (s.memWrite8 x v).h = s.h := rfl
@[simp] theorem memWrite8_l (x : Word) (v : Byte) : (s.memWrite8 x v).l = s.l := rfl
@[simp] theorem memWrite8_i (x : Word) (v : Byte) : (s.memWrite8 x v).i = s.i := rfl
@[simp] theorem memWrite8_r (x : Word) (v : Byte) : (s.memWrite8 x v).r = s.r := rfl
@[simp] theorem memWrite8_mem (x : Word) (v : Byte) : (s.memWrite8 x v).mem = s.mem.set x v := rfl

/-! memWrite16 -/

@[simp] theorem memWrite16_af (x w : Word) : (s.memWrite16 x w).af = s.af := rfl
@[simp] theorem memWrite16_bc (x w : Word) : (s.memWrite16 x w).bc = s.bc := rfl
@[simp] theorem memWrite16_de (x w : Word) : (s.memWrite16 x w).de = s.de := rfl
@[simp] theorem memWrite16_hl (x w : Word) : (s.memWrite16 x w).hl = s.hl := rfl
@[simp] theorem memWrite16_af' (x w : Word) : (s.memWrite16 x w).af' = s.af' := rfl
@[simp] theorem memWrite16_bc' (x w : Word) : (s.memWrite16 x w).bc' = s.bc' := rfl
@[simp] theorem memWrite16_de' (x w : Word) : (s.memWrite16 x w).de' = s.de' := rfl
@[simp] theorem memWrite16_hl' (x w : Word) : (s.memWrite16 x w).hl' = s.hl' := rfl
@[simp] theorem memWrite16_ix (x w : Word) : (s.memWrite16 x w).ix = s.ix := rfl
@[simp] theorem memWrite16_iy (x w : Word) : (s.memWrite16 x w).iy = s.iy := rfl
@[simp] theorem memWrite16_sp (x w : Word) : (s.memWrite16 x w).sp = s.sp := rfl
@[simp] theorem memWrite16_pc (x w : Word) : (s.memWrite16 x w).pc = s.pc := rfl
@[simp] theorem memWrite16_ir (x w : Word) : (s.memWrite16 x w).ir = s.ir := rfl
@[simp] theorem memWrite16_iff1 (x w : Word) : (s.memWrite16 x w).iff1 = s.iff1 := rfl
@[simp] theorem memWrite16_iff2 (x w : Word) : (s.memWrite16 x w).iff2 = s.iff2 := rfl
@[simp] theorem memWrite16_a (x w : Word) : (s.memWrite16 x w).a = s.a := rfl
@[simp] theorem memWrite16_f (x w : Word) : (s.memWrite16 x w).f = s.f := rfl
@[simp] theorem memWrite16_b (x w : Word) : (s.memWrite16 x w).b = s.b := rfl
@[simp] theorem memWrite16_c (x w : Word) : (s.memWrite16 x w).c = s.c := rfl
@[simp] theorem memWrite16_d (x w : Word) : (s.memWrite16 x w).d = s.d := rfl
@[simp] theorem memWrite16_e (x w : Word) : (s.memWrite16 x w).e = s.e := rfl
@[simp] theorem memWrite16_h (x w : Word) : (s.memWrite16 x w).h = s.h := rfl
@[simp] theorem memWrite16_l (x w : Word) : (s.memWrite16 x w).l = s.l := rfl
@[simp] theorem memWrite16_i (x w : Word) : (s.memWrite16 x w).i = s.i := rfl
@[simp] theorem memWrite16_r (x w : Word) : (s.memWrite16 x w).r = s.r := rfl
@[simp] theorem memWrite16_mem (x w : Word) : (s.memWrite16 x w).mem = (s.mem.set x (loByte w)).set (x + 1) (hiByte w) := rfl

/-! store -/

@[simp] theorem store_af (m : MemOp) (v : Byte) : (s.store m v).af = s.af := rfl
@[simp] theorem store_bc (m : MemOp) (v : Byte) : (s.store m v).bc = s.bc := rfl
@[simp] theorem store_de (m : MemOp) (v : Byte) : (s.store m v).de = s.de := rfl
@[simp] theorem store_hl (m : MemOp) (v : Byte) : (s.store m v).hl = s.hl := rfl
@[simp] theorem store_af' (m : MemOp) (v : Byte) : (s.store m v).af' = s.af' := rfl
@[simp] theorem store_bc' (m : MemOp) (v : Byte) : (s.store m v).bc' = s.bc' := rfl
@[simp] theorem store_de' (m : MemOp) (v : Byte) : (s.store m v).de' = s.de' := rfl
@[simp] theorem store_hl' (m : MemOp) (v : Byte) : (s.store m v).hl' = s.hl' := rfl
@[simp] theorem store_ix (m : MemOp) (v : Byte) : (s.store m v).ix = s.ix := rfl
@[simp] theorem store_iy (m : MemOp) (v : Byte) : (s.store m v).iy = s.iy := rfl
@[simp] theorem store_sp (m : MemOp) (v : Byte) : (s.store m v).sp = s.sp := rfl
@[simp] theorem store_pc (m : MemOp) (v : Byte) : (s.store m v).pc = s.pc := rfl
@[simp] theorem store_ir (m : MemOp) (v : Byte) : (s.store m v).ir = s.ir := rfl
@[simp] theorem store_iff1 (m : MemOp) (v : Byte) : (s.store m v).iff1 = s.iff1 := rfl
@[simp] theorem store_iff2 (m : MemOp) (v : Byte) : (s.store m v).iff2 = s.iff2 := rfl
@[simp] theorem store_a (m : MemOp) (v : Byte) : (s.store m v).a = s.a := rfl
@[simp] theorem store_f (m : MemOp) (v : Byte) : (s.store m v).f = s.f := rfl
@[simp] theorem store_b (m : MemOp) (v : Byte) : (s.store m v).b = s.b := rfl
@[simp] theorem store_c (m : MemOp) (v : Byte) : (s.store m v).c = s.c := rfl
@[simp] theorem store_d (m : MemOp) (v : Byte) : (s.store m v).d = s.d := rfl
@[simp] theorem store_e (m : MemOp) (v : Byte) : (s.store m v).e = s.e := rfl
@[simp] theorem store_h (m : MemOp) (v : Byte) : (s.store m v).h = s.h := rfl
@[simp] theorem store_l (m : MemOp) (v : Byte) : (s.store m v).l = s.l := rfl
@[simp] theorem store_i (m : MemOp) (v : Byte) : (s.store m v).i = s.i := rfl
@[simp] theorem store_r (m : MemOp) (v : Byte) : (s.store m v).r = s.r := rfl
@[simp] theorem store_mem (m : MemOp) (v : Byte) : (s.store m v).mem = s.mem.set (m.ea s) v := rfl

/-! push -/

@[simp] theorem push_af (w : Word) : (s.push w).af = s.af := rfl
@[simp] theorem push_bc (w : Word) : (s.push w).bc = s.bc := rfl
@[simp] theorem push_de (w : Word) : (s.push w).de = s.de := rfl
@[simp] theorem push_hl (w : Word) : (s.push w).hl = s.hl := rfl
@[simp] theorem push_af' (w : Word) : (s.push w).af' = s.af' := rfl
@[simp] theorem push_bc' (w : Word) : (s.push w).bc' = s.bc' := rfl
@[simp] theorem push_de' (w : Word) : (s.push w).de' = s.de' := rfl
@[simp] theorem push_hl' (w : Word) : (s.push w).hl' = s.hl' := rfl
@[simp] theorem push_ix (w : Word) : (s.push w).ix = s.ix := rfl
@[simp] theorem push_iy (w : Word) : (s.push w).iy = s.iy := rfl
@[simp] theorem push_pc (w : Word) : (s.push w).pc = s.pc := rfl
@[simp] theorem push_ir (w : Word) : (s.push w).ir = s.ir := rfl
@[simp] theorem push_iff1 (w : Word) : (s.push w).iff1 = s.iff1 := rfl
@[simp] theorem push_iff2 (w : Word) : (s.push w).iff2 = s.iff2 := rfl
@[simp] theorem push_a (w : Word) : (s.push w).a = s.a := rfl
@[simp] theorem push_f (w : Word) : (s.push w).f = s.f := rfl
@[simp] theorem push_b (w : Word) : (s.push w).b = s.b := rfl
@[simp] theorem push_c (w : Word) : (s.push w).c = s.c := rfl
@[simp] theorem push_d (w : Word) : (s.push w).d = s.d := rfl
@[simp] theorem push_e (w : Word) : (s.push w).e = s.e := rfl
@[simp] theorem push_h (w : Word) : (s.push w).h = s.h := rfl
@[simp] theorem push_l (w : Word) : (s.push w).l = s.l := rfl
@[simp] theorem push_i (w : Word) : (s.push w).i = s.i := rfl
@[simp] theorem push_r (w : Word) : (s.push w).r = s.r := rfl
@[simp] theorem push_sp (w : Word) : (s.push w).sp = s.sp - 2 := by
  show s.sp - 1 - 1 = s.sp - 2
  bv_omega
@[simp] theorem push_mem (w : Word) : (s.push w).mem = (s.mem.set (s.sp - 1) (hiByte w)).set (s.sp - 1 - 1) (loByte w) := rfl

/-! pop -/

@[simp] theorem pop_af : (s.pop.2).af = s.af := rfl
@[simp] theorem pop_bc : (s.pop.2).bc = s.bc := rfl
@[simp] theorem pop_de : (s.pop.2).de = s.de := rfl
@[simp] theorem pop_hl : (s.pop.2).hl = s.hl := rfl
@[simp] theorem pop_af' : (s.pop.2).af' = s.af' := rfl
@[simp] theorem pop_bc' : (s.pop.2).bc' = s.bc' := rfl
@[simp] theorem pop_de' : (s.pop.2).de' = s.de' := rfl
@[simp] theorem pop_hl' : (s.pop.2).hl' = s.hl' := rfl
@[simp] theorem pop_ix : (s.pop.2).ix = s.ix := rfl
@[simp] theorem pop_iy : (s.pop.2).iy = s.iy := rfl
@[simp] theorem pop_pc : (s.pop.2).pc = s.pc := rfl
@[simp] theorem pop_ir : (s.pop.2).ir = s.ir := rfl
@[simp] theorem pop_iff1 : (s.pop.2).iff1 = s.iff1 := rfl
@[simp] theorem pop_iff2 : (s.pop.2).iff2 = s.iff2 := rfl
@[simp] theorem pop_mem : (s.pop.2).mem = s.mem := rfl
@[simp] theorem pop_a : (s.pop.2).a = s.a := rfl
@[simp] theorem pop_f : (s.pop.2).f = s.f := rfl
@[simp] theorem pop_b : (s.pop.2).b = s.b := rfl
@[simp] theorem pop_c : (s.pop.2).c = s.c := rfl
@[simp] theorem pop_d : (s.pop.2).d = s.d := rfl
@[simp] theorem pop_e : (s.pop.2).e = s.e := rfl
@[simp] theorem pop_h : (s.pop.2).h = s.h := rfl
@[simp] theorem pop_l : (s.pop.2).l = s.l := rfl
@[simp] theorem pop_i : (s.pop.2).i = s.i := rfl
@[simp] theorem pop_r : (s.pop.2).r = s.r := rfl
@[simp] theorem pop_sp : s.pop.2.sp = s.sp + 2 := by
  show s.sp + 1 + 1 = s.sp + 2
  bv_omega
@[simp] theorem pop_value : s.pop.1 = wordOf (s.memRead8 (s.sp + 1)) (s.memRead8 s.sp) := rfl

/-! popPc -/

@[simp] theorem popPc_af : (s.popPc).af = s.af := rfl
@[simp] theorem popPc_bc : (s.popPc).bc = s.bc := rfl
@[simp] theorem popPc_de : (s.popPc).de = s.de := rfl
@[simp] theorem popPc_hl : (s.popPc).hl = s.hl := rfl
@[simp] theorem popPc_af' : (s.popPc).af' = s.af' := rfl
@[simp] theorem popPc_bc' : (s.popPc).bc' = s.bc' := rfl
@[simp] theorem popPc_de' : (s.popPc).de' = s.de' := rfl
@[simp] theorem popPc_hl' : (s.popPc).hl' = s.hl' := rfl
@[simp] theorem popPc_ix : (s.popPc).ix = s.ix := rfl
@[simp] theorem popPc_iy : (s.popPc).iy = s.iy := rfl
@[simp] theorem popPc_ir : (s.popPc).ir = s.ir := rfl
@[simp] theorem popPc_iff1 : (s.popPc).iff1 = s.iff1 := rfl
@[simp] theorem popPc_iff2 : (s.popPc).iff2 = s.iff2 := rfl
@[simp] theorem popPc_mem : (s.popPc).mem = s.mem := rfl
@[simp] theorem popPc_a : (s.popPc).a = s.a := rfl
@[simp] theorem popPc_f : (s.popPc).f = s.f := rfl
@[simp] theorem popPc_b : (s.popPc).b = s.b := rfl
@[simp] theorem popPc_c : (s.popPc).c = s.c := rfl
@[simp] theorem popPc_d : (s.popPc).d = s.d := rfl
@[simp] theorem popPc_e : (s.popPc).e = s.e := rfl
@[simp] theorem popPc_h : (s.popPc).h = s.h := rfl
@[simp] theorem popPc_l : (s.popPc).l = s.l := rfl
@[simp] theorem popPc_i : (s.popPc).i = s.i := rfl
@[simp] theorem popPc_r : (s.popPc).r = s.r := rfl
@[simp] theorem popPc_sp : s.popPc.sp = s.sp + 2 := pop_sp s
@[simp] theorem popPc_pc : s.popPc.pc = wordOf (s.memRead8 (s.sp + 1)) (s.memRead8 s.sp) := rfl

/-! call -/

@[simp] theorem call_af (w : Word) : (s.call w).af = s.af := rfl
@[simp] theorem call_bc (w : Word) : (s.call w).bc = s.bc := rfl
@[simp] theorem call_de (w : Word) : (s.call w).de = s.de := rfl
@[simp] theorem call_hl (w : Word) : (s.call w).hl = s.hl := rfl
@[simp] theorem call_af' (w : Word) : (s.call w).af' = s.af' := rfl
@[simp] theorem call_bc' (w : Word) : (s.call w).bc' = s.bc' := rfl
@[simp] theorem call_de' (w : Word) : (s.call w).de' = s.de' := rfl
@[simp] theorem call_hl' (w : Word) : (s.call w).hl' = s.hl' := rfl
@[simp] theorem call_ix (w : Word) : (s.call w).ix = s.ix := rfl
@[simp] theorem call_iy (w : Word) : (s.call w).iy = s.iy := rfl
@[simp] theorem call_ir (w : Word) : (s.call w).ir = s.ir := rfl
@[simp] theorem call_iff1 (w : Word) : (s.call w).iff1 = s.iff1 := rfl
@[simp] theorem call_iff2 (w : Word) : (s.call w).iff2 = s.iff2 := rfl
@[simp] theorem call_a (w : Word) : (s.call w).a = s.a := rfl
@[simp] theorem call_f (w : Word) : (s.call w).f = s.f := rfl
@[simp] theorem call_b (w : Word) : (s.call w).b = s.b := rfl
@[simp] theorem call_c (w : Word) : (s.call w).c = s.c := rfl
@[simp] theorem call_d (w : Word) : (s.call w).d = s.d := rfl
@[simp] theorem call_e (w : Word) : (s.call w).e = s.e := rfl
@[simp] theorem call_h (w : Word) : (s.call w).h = s.h := rfl
@[simp] theorem call_l (w : Word) : (s.call w).l = s.l := rfl
@[simp] theorem call_i (w : Word) : (s.call w).i = s.i := rfl
@[simp] theorem call_r (w : Word) : (s.call w).r = s.r := rfl
@[simp] theorem call_sp (w : Word) : (s.call w).sp = s.sp - 2 := push_sp s s.pc
@[simp] theorem call_pc (w : Word) : (s.call w).pc = w := rfl
@[simp] theorem call_mem (w : Word) : (s.call w).mem = (s.mem.set (s.sp - 1) (hiByte s.pc)).set (s.sp - 1 - 1) (loByte s.pc) := rfl

/-! jumpRelative -/

@[simp] theorem jumpRelative_af (v : Byte) : (s.jumpRelative v).af = s.af := rfl
@[simp] theorem jumpRelative_bc (v : Byte) : (s.jumpRelative v).bc = s.bc := rfl
@[simp] theorem jumpRelative_de (v : Byte) : (s.jumpRelative v).de = s.de := rfl
@[simp] theorem jumpRelative_hl (v : Byte) : (s.jumpRelative v).hl = s.hl := rfl
@[simp] theorem jumpRelative_af' (v : Byte) : (s.jumpRelative v).af' = s.af' := rfl
@[simp] theorem jumpRelative_bc' (v : Byte) : (s.jumpRelative v).bc' = s.bc' := rfl
@[simp] theorem jumpRelative_de' (v : Byte) : (s.jumpRelative v).de' = s.de' := rfl
@[simp] theorem jumpRelative_hl' (v : Byte) : (s.jumpRelative v).hl' = s.hl' := rfl
@[simp] theorem jumpRelative_ix (v : Byte) : (s.jumpRelative v).ix = s.ix := rfl
@[simp] theorem jumpRelative_iy (v : Byte) : (s.jumpRelative v).iy = s.iy := rfl
@[simp] theorem jumpRelative_sp (v : Byte) : (s.jumpRelative v).sp = s.sp := rfl
@[simp] theorem jumpRelative_ir (v : Byte) : (s.jumpRelative v).ir = s.ir := rfl
@[simp] theorem jumpRelative_iff1 (v : Byte) : (s.jumpRelative v).iff1 = s.iff1 := rfl
@[simp] theorem jumpRelative_iff2 (v : Byte) : (s.jumpRelative v).iff2 = s.iff2 := rfl
@[simp] theorem jumpRelative_mem (v : Byte) : (s.jumpRelative v).mem = s.mem := rfl
@[simp] theorem jumpRelative_a (v : Byte) : (s.jumpRelative v).a = s.a := rfl
@[simp] theorem jumpRelative_f (v : Byte) : (s.jumpRelative v).f = s.f := rfl
@[simp] theorem jumpRelative_b (v : Byte) : (s.jumpRelative v).b = s.b := rfl
@[simp] theorem jumpRelative_c (v : Byte) : (s.jumpRelative v).c = s.c := rfl
@[simp] theorem jumpRelative_d (v : Byte) : (s.jumpRelative v).d = s.d := rfl
@[simp] theorem jumpRelative_e (v : Byte) : (s.jumpRelative v).e = s.e := rfl
@[simp] theorem jumpRelative_h (v : Byte) : (s.jumpRelative v).h = s.h := rfl
@[simp] theorem jumpRelative_l (v : Byte) : (s.jumpRelative v).l = s.l := rfl
@[simp] theorem jumpRelative_i (v : Byte) : (s.jumpRelative v).i = s.i := rfl
@[simp] theorem jumpRelative_r (v : Byte) : (s.jumpRelative v).r = s.r := rfl
@[simp] theorem jumpRelative_pc (v : Byte) : (s.jumpRelative v).pc = s.pc + sext16 v := rfl

/-! flag -/

@[simp] theorem flag_bc (dir : Directives) : (s.flag dir).bc = s.bc := rfl
@[simp] theorem flag_de (dir : Directives) : (s.flag dir).de = s.de := rfl
@[simp] theorem flag_hl (dir : Directives) : (s.flag dir).hl = s.hl := rfl
@[simp] theorem flag_af' (dir : Directives) : (s.flag dir).af' = s.af' := rfl
@[simp] theorem flag_bc' (dir : Directives) : (s.flag dir).bc' = s.bc' := rfl
@[simp] theorem flag_de' (dir : Directives) : (s.flag dir).de' = s.de' := rfl
@[simp] theorem flag_hl' (dir : Directives) : (s.flag dir).hl' = s.hl' := rfl
@[simp] theorem flag_ix (dir : Directives) : (s.flag dir).ix = s.ix := rfl
@[simp] theorem flag_iy (dir : Directives) : (s.flag dir).iy = s.iy := rfl
@[simp] theorem flag_sp (dir : Directives) : (s.flag dir).sp = s.sp := rfl
@[simp] theorem flag_pc (dir : Directives) : (s.flag dir).pc = s.pc := rfl
@[simp] theorem flag_ir (dir : Directives) : (s.flag dir).ir = s.ir := rfl
@[simp] theorem flag_iff1 (dir : Directives) : (s.flag dir).iff1 = s.iff1 := rfl
@[simp] theorem flag_iff2 (dir : Directives) : (s.flag dir).iff2 = s.iff2 := rfl
@[simp] theorem flag_mem (dir : Directives) : (s.flag dir).mem = s.mem := rfl
@[simp] theorem flag_b (dir : Directives) : (s.flag dir).b = s.b := rfl
@[simp] theorem flag_c (dir : Directives) : (s.flag dir).c = s.c := rfl
@[simp] theorem flag_d (dir : Directives) : (s.flag dir).d = s.d := rfl
@[simp] theorem flag_e (dir : Directives) : (s.flag dir).e = s.e := rfl
@[simp] theorem flag_h (dir : Directives) : (s.flag dir).h = s.h := rfl
@[simp] theorem flag_l (dir : Directives) : (s.flag dir).l = s.l := rfl
@[simp] theorem flag_i (dir : Directives) : (s.flag dir).i = s.i := rfl
@[simp] theorem flag_r (dir : Directives) : (s.flag dir).r = s.r := rfl
@[simp] theorem flag_a (dir : Directives) : (s.flag dir).a = s.a := by simp [flag]
@[simp] theorem flag_f (dir : Directives) : (s.flag dir).f = applyFlags s.f dir := by simp [flag]

/-! Reading memory sees only the memory. -/

@[simp] theorem setA_memRead8 (v : Byte) (x : Word) : (s.setA v).memRead8 x = s.memRead8 x := by simp [memRead8]
@[simp] theorem setF_memRead8 (v : Byte) (x : Word) : (s.setF v).memRead8 x = s.memRead8 x := by simp [memRead8]
@[simp] theorem setB_memRead8 (v : Byte) (x : Word) : (s.setB v).memRead8 x = s.memRead8 x := by simp [memRead8]
@[simp] theorem setI_memRead8 (v : Byte) (x : Word) : (s.setI v).memRead8 x = s.memRead8 x := by simp [memRead8]
@[simp] theorem setR_memRead8 (v : Byte) (x : Word) : (s.setR v).memRead8 x = s.memRead8 x := by simp [memRead8]
@[simp] theorem writeR8_memRead8 (q : R8) (v : Byte) (x : Word) : (s.writeR8 q v).memRead8 x = s.memRead8 x := by simp [memRead8]
@[simp] theorem writeRp_memRead8 (q : Rp) (w : Word) (x : Word) : (s.writeRp q w).memRead8 x = s.memRead8 x := by simp [memRead8]
@[simp] theorem writeRp2_memRead8 (q : Rp2) (w : Word) (x : Word) : (s.writeRp2 q w).memRead8 x = s.memRead8 x := by simp [memRead8]
@[simp] theorem setPc_memRead8 (w : Word) (x : Word) : (s.setPc w).memRead8 x = s.memRead8 x := by simp [memRead8]
@[simp] theorem flag_memRead8 (dir : Directives) (x : Word) : (s.flag dir).memRead8 x = s.memRead8 x := by simp [memRead8]
@[simp] theorem jumpRelative_memRead8 (v : Byte) (x : Word) : (s.jumpRelative v).memRead8 x = s.memRead8 x := by simp [memRead8]
@[simp] theorem pop_memRead8 (x : Word) : (s.pop.2).memRead8 x = s.memRead8 x := by simp [memRead8]
@[simp] theorem popPc_memRead8 (x : Word) : (s.popPc).memRead8 x = s.memRead8 x := by simp [memRead8]

end Sys2Proof.Machine.State
end

