-- ==== Sys2Proof/Laws/Flags.lean ====
section
/-! SUPPORT. What `apply` leaves in each bit of F (spec/40_alu_flags.md R112, R115), and the flags of a state after the
updates that write F. -/

namespace Sys2Proof.Machine

/-! ## Bits of the new F -/

/-- A byte written bit by bit reads back bit by bit. -/
theorem getLsbD_of_bits : ∀ b7 b6 b5 b4 b3 b2 b1 b0 : Bool,
    let v : Byte := BitVec.ofBool b7 ++ BitVec.ofBool b6 ++ BitVec.ofBool b5 ++ BitVec.ofBool b4 ++ BitVec.ofBool b3 ++
      BitVec.ofBool b2 ++ BitVec.ofBool b1 ++ BitVec.ofBool b0
    v.getLsbD 7 = b7 ∧ v.getLsbD 6 = b6 ∧ v.getLsbD 5 = b5 ∧ v.getLsbD 4 = b4 ∧ v.getLsbD 3 = b3 ∧ v.getLsbD 2 = b2 ∧
      v.getLsbD 1 = b1 ∧ v.getLsbD 0 = b0 := by
  decide +kernel

/-- Every bit of `apply`'s result: each flag by its own directive from its own old value, bits 5 and 3 copied. -/
theorem applyFlags_bits (F : Byte) (dir : Directives) :
    (applyFlags F dir).getLsbD 7 = dir.s.resolve (F.getLsbD 7) ∧
    (applyFlags F dir).getLsbD 6 = dir.z.resolve (F.getLsbD 6) ∧
    (applyFlags F dir).getLsbD 5 = F.getLsbD 5 ∧
    (applyFlags F dir).getLsbD 4 = dir.h.resolve (F.getLsbD 4) ∧
    (applyFlags F dir).getLsbD 3 = F.getLsbD 3 ∧
    (applyFlags F dir).getLsbD 2 = dir.pv.resolve (F.getLsbD 2) ∧
    (applyFlags F dir).getLsbD 1 = dir.n.resolve (F.getLsbD 1) ∧
    (applyFlags F dir).getLsbD 0 = dir.c.resolve (F.getLsbD 0) := getLsbD_of_bits ..

/-- Two bytes agree on bits 5 and 3 when each of the two bits agrees. -/
theorem spare_eq {F G : Byte} (h5 : F.getLsbD 5 = G.getLsbD 5) (h3 : F.getLsbD 3 = G.getLsbD 3) :
    F &&& 0x28 = G &&& 0x28 := by
  apply BitVec.eq_of_getLsbD_eq
  intro k hk
  rw [BitVec.getLsbD_and, BitVec.getLsbD_and]
  have hcases : k = 5 ∨ k = 3 ∨ (0x28 : Byte).getLsbD k = false := by
    revert hk
    revert k
    decide
  rcases hcases with rfl | rfl | h
  · rw [h5]
  · rw [h3]
  · rw [h, Bool.and_false, Bool.and_false]

/-! ## Flags of a state -/

namespace State

@[simp] theorem spareBits_flag (s : State) (dir : Directives) : (s.flag dir).spareBits = s.spareBits := by
  simp only [spareBits, flag, setF_f]
  obtain ⟨-, -, h5, -, h3, -⟩ := applyFlags_bits s.f dir
  exact spare_eq h5 h3

theorem flags_flag (s : State) (dir : Directives) :
    (s.flag dir).flags =
      { s := dir.s.resolve s.flags.s, z := dir.z.resolve s.flags.z, h := dir.h.resolve s.flags.h,
        pv := dir.pv.resolve s.flags.pv, n := dir.n.resolve s.flags.n, c := dir.c.resolve s.flags.c } := by
  obtain ⟨h7, h6, -, h4, -, h2, h1, h0⟩ := applyFlags_bits s.f dir
  simp only [flags, flagValues, flag, setF_f, h7, h6, h4, h2, h1, h0]

/-- Where F is as it was, so are the flags. -/
theorem flags_of_f {s t : State} (h : t.f = s.f) : t.flags = s.flags := by simp only [flags, h]

/-- Where F is as it was, so are its spare bits. -/
theorem spareBits_of_f {s t : State} (h : t.f = s.f) : t.spareBits = s.spareBits := by simp only [spareBits, h]

@[simp] theorem carry_eq (s : State) : s.carry = s.flags.c := rfl

/-- A condition reads the flags of R351. -/
theorem cond_eq (s : State) (cc : Cond) : s.cond cc = condHolds cc s.flags := by cases cc <;> rfl

end State

end Sys2Proof.Machine
end

