-- ==== Sys2Proof/Laws/Memory.lean ====
section
/-! SUPPORT. The laws of memory: a read after a write gives the byte written and every other address is left alone
(spec/20_memory.md R59), every write keeps the canonical form, and canonical memories that read alike are equal. -/

namespace Sys2Proof.Machine

namespace Memory

theorem lookup_erase (m : Memory) (n k : Nat) :
    lookup (erase n m) k = if k = n then Config.unlistedByte else lookup m k := by
  induction m with
  | nil => simp [erase, lookup]
  | cons e m ih =>
    obtain ⟨j, w⟩ := e
    by_cases hj : j = n
    · subst hj
      by_cases hk : k = j
      · simpa [erase, hk] using ih
      · simpa [erase, lookup, hk, Ne.symm hk] using ih
    · by_cases hk : k = n
      · subst hk
        simp [erase, lookup, ih, hj]
      · simp [erase, lookup, ih, hj, hk]

theorem lookup_place (m : Memory) (n k : Nat) (v : Byte) (hm : ∀ w, (n, w) ∉ m) :
    lookup (place n v m) k = if k = n then v else lookup m k := by
  induction m with
  | nil =>
    by_cases hk : k = n
    · simp [place, lookup, hk]
    · simp [place, lookup, hk, Ne.symm hk]
  | cons e m ih =>
    obtain ⟨j, w⟩ := e
    have hj : j ≠ n := fun h => hm w (by simp [h])
    have ih := ih fun u hu => hm u (List.mem_cons_of_mem _ hu)
    by_cases hlt : n < j
    · by_cases hk : k = n
      · simp [place, lookup, hlt, hk]
      · simp [place, lookup, hlt, hk, Ne.symm hk]
    · by_cases hk : k = n
      · subst hk
        simp [place, lookup, hlt, hj, ih]
      · simp [place, lookup, hlt, hk, ih]

theorem not_mem_erase (m : Memory) (n : Nat) (w : Byte) : (n, w) ∉ erase n m := by
  induction m with
  | nil => simp [erase]
  | cons e m ih =>
    obtain ⟨j, u⟩ := e
    by_cases hj : j = n
    · simpa [erase, hj] using ih
    · simpa [erase, hj, Ne.symm hj] using ih

/-- Reading a key after a write. -/
theorem lookup_insert (m : Memory) (n k : Nat) (v : Byte) :
    lookup (insert n v m) k = if k = n then v else lookup m k := by
  unfold insert
  split
  · next h => rw [lookup_erase, h]
  · rw [lookup_place _ _ _ _ (not_mem_erase m n), lookup_erase]
    by_cases hk : k = n <;> simp [hk]

/-- R59 (a): a `get` returns the byte last `set` at that address, and every other address is as before. -/
theorem get_set (m : Memory) (x y : Word) (v : Byte) : (m.set x v).get y = if y = x then v else m.get y := by
  simp only [get, set, lookup_insert, BitVec.toNat_inj]

@[simp] theorem get_set_self (m : Memory) (x : Word) (v : Byte) : (m.set x v).get x = v := by simp [get_set]

theorem get_set_of_ne (m : Memory) {x y : Word} (v : Byte) (h : y ≠ x) : (m.set x v).get y = m.get y := by
  simp [get_set, h]

/-! ## The canonical form -/

theorem wfFrom_mono {m : Memory} {lo lo' : Nat} (h : lo' ≤ lo) (hm : wfFrom lo m = true) : wfFrom lo' m = true := by
  cases m with
  | nil => rfl
  | cons e m =>
    obtain ⟨k, v⟩ := e
    simp only [wfFrom, Bool.and_eq_true, decide_eq_true_eq] at hm ⊢
    exact ⟨⟨⟨by omega, hm.1.1.2⟩, hm.1.2⟩, hm.2⟩

theorem wfFrom_erase {m : Memory} {lo : Nat} (n : Nat) (hm : wfFrom lo m = true) : wfFrom lo (erase n m) = true := by
  induction m generalizing lo with
  | nil => rfl
  | cons e m ih =>
    obtain ⟨k, v⟩ := e
    simp only [wfFrom, Bool.and_eq_true, decide_eq_true_eq] at hm
    by_cases hk : k = n
    · simpa [erase, hk] using wfFrom_mono (by omega) (ih hm.2)
    · simp only [erase, if_neg hk, wfFrom, Bool.and_eq_true, decide_eq_true_eq]
      exact ⟨hm.1, ih hm.2⟩

theorem wfFrom_place {m : Memory} {lo n : Nat} {v : Byte} (hlo : lo ≤ n) (hn : n < Config.memorySize)
    (hv : v ≠ Config.unlistedByte) (hm : wfFrom lo m = true) (hnot : ∀ w, (n, w) ∉ m) :
    wfFrom lo (place n v m) = true := by
  induction m generalizing lo with
  | nil => simp [place, wfFrom, hlo, hn, hv]
  | cons e m ih =>
    obtain ⟨k, w⟩ := e
    simp only [wfFrom, Bool.and_eq_true, decide_eq_true_eq] at hm
    have hne : k ≠ n := fun h => hnot w (by simp [h])
    by_cases hlt : n < k
    · simp only [place, if_pos hlt, wfFrom, Bool.and_eq_true, decide_eq_true_eq]
      exact ⟨⟨⟨hlo, hn⟩, hv⟩, ⟨⟨by omega, hm.1.1.2⟩, hm.1.2⟩, hm.2⟩
    · simp only [place, if_neg hlt, wfFrom, Bool.and_eq_true, decide_eq_true_eq]
      exact ⟨hm.1, ih (by omega) hm.2 fun u hu => hnot u (List.mem_cons_of_mem _ hu)⟩

/-- Every write keeps the canonical form. -/
theorem wf_set {m : Memory} (x : Word) (v : Byte) (hm : m.wf = true) : (m.set x v).wf = true := by
  unfold set insert wf
  split
  · exact wfFrom_erase _ hm
  · next hv => exact wfFrom_place (Nat.zero_le _) x.isLt hv (wfFrom_erase _ hm) (not_mem_erase m _)

@[simp] theorem wf_nil : Memory.wf [] = true := rfl

theorem lookup_of_lt {m : Memory} {lo n : Nat} (hm : wfFrom lo m = true) (h : n < lo) :
    lookup m n = Config.unlistedByte := by
  induction m generalizing lo with
  | nil => rfl
  | cons e m ih =>
    obtain ⟨k, v⟩ := e
    simp only [wfFrom, Bool.and_eq_true, decide_eq_true_eq] at hm
    have hk : k ≠ n := by omega
    simp only [lookup, if_neg hk]
    exact ih hm.2 (by omega)

theorem eq_of_lookup {m m' : Memory} {lo lo' : Nat} (hm : wfFrom lo m = true) (hm' : wfFrom lo' m' = true)
    (h : ∀ n, n < Config.memorySize → lookup m n = lookup m' n) : m = m' := by
  induction m generalizing m' lo lo' with
  | nil =>
    cases m' with
    | nil => rfl
    | cons e m' =>
      obtain ⟨k, v⟩ := e
      simp only [wfFrom, Bool.and_eq_true, decide_eq_true_eq] at hm'
      have := h k hm'.1.1.2
      simp only [lookup, if_pos] at this
      exact absurd this.symm hm'.1.2
  | cons e m ih =>
    obtain ⟨k, v⟩ := e
    cases m' with
    | nil =>
      simp only [wfFrom, Bool.and_eq_true, decide_eq_true_eq] at hm
      have := h k hm.1.1.2
      simp only [lookup, if_pos] at this
      exact absurd this hm.1.2
    | cons e' m' =>
      obtain ⟨k', v'⟩ := e'
      simp only [wfFrom, Bool.and_eq_true, decide_eq_true_eq] at hm hm'
      have hk : k = k' := by
        rcases Nat.lt_trichotomy k k' with hlt | heq | hgt
        · have h1 := h k hm.1.1.2
          have hne : k' ≠ k := by omega
          simp only [lookup, if_pos, if_neg hne] at h1
          rw [lookup_of_lt hm'.2 (by omega)] at h1
          exact absurd h1 hm.1.2
        · exact heq
        · have h1 := h k' hm'.1.1.2
          have hne : k ≠ k' := by omega
          simp only [lookup, if_pos, if_neg hne] at h1
          rw [lookup_of_lt hm.2 (by omega)] at h1
          exact absurd h1.symm hm'.1.2
      subst hk
      have hv : v = v' := by simpa [lookup] using h k hm.1.1.2
      subst hv
      congr 1
      refine ih hm.2 hm'.2 fun n hn => ?_
      by_cases hkn : k = n
      · subst hkn
        rw [lookup_of_lt hm.2 (by omega), lookup_of_lt hm'.2 (by omega)]
      · simpa [lookup, hkn] using h n hn

end Memory

namespace State

theorem memRead8_memWrite8 (s : State) (x y : Word) (v : Byte) :
    (s.memWrite8 x v).memRead8 y = if y = x then v else s.memRead8 y := Memory.get_set _ _ _ _

theorem wf_memWrite8 {s : State} (x : Word) (v : Byte) (h : s.mem.wf = true) : (s.memWrite8 x v).mem.wf = true :=
  Memory.wf_set x v h

theorem wf_memWrite16 {s : State} (x w : Word) (h : s.mem.wf = true) : (s.memWrite16 x w).mem.wf = true :=
  wf_memWrite8 _ _ (wf_memWrite8 _ _ h)

theorem wf_push {s : State} (w : Word) (h : s.mem.wf = true) : (s.push w).mem.wf = true :=
  Memory.wf_set _ _ (Memory.wf_set _ _ h)

/-- A word is two bytes, the low one at the lower address; every other address is as before (R53). -/
theorem memRead8_memWrite16 (s : State) (x w y : Word) :
    (s.memWrite16 x w).memRead8 y = if y = x + 1 then hiByte w else if y = x then loByte w else s.memRead8 y := by
  simp only [memWrite16, memRead8_memWrite8]

/-- Where a push stores (R181). -/
theorem memRead8_push (s : State) (w y : Word) :
    (s.push w).memRead8 y =
      if y = s.sp - 1 - 1 then loByte w else if y = s.sp - 1 then hiByte w else s.memRead8 y := by
  simp only [push, memRead8, memWrite8, Memory.get_set]

end State

end Sys2Proof.Machine
end

