-- ==== Sys2Proof/Laws/Frame.lean ====
section
/-! SUPPORT. What each shared operation changes and that it changes nothing else, in the terms of Sys2Proof/Safety.lean:
one lemma per operation, so that a proof about an instruction cites its operation's lemma. -/

namespace Sys2Proof.Machine

variable {s t u : State} {cells cells' : List Cell} {addrs addrs' : List Word}

/-! ## Frames as relations -/

theorem UnchangedExcept.refl (cells : List Cell) (s : State) : UnchangedExcept cells s s := fun _ _ => rfl

theorem UnchangedExcept.trans (h : UnchangedExcept cells s t) (h' : UnchangedExcept cells t u) :
    UnchangedExcept cells s u := fun x hx => (h' x hx).trans (h x hx)

theorem UnchangedExcept.mono (h : UnchangedExcept cells s t) (hsub : ∀ x ∈ cells, x ∈ cells') :
    UnchangedExcept cells' s t := fun x hx => h x fun hx' => hx (hsub x hx')

theorem MemoryUnchangedExcept.refl (addrs : List Word) (s : State) : MemoryUnchangedExcept addrs s s := fun _ _ => rfl

theorem MemoryUnchangedExcept.trans (h : MemoryUnchangedExcept addrs s t) (h' : MemoryUnchangedExcept addrs t u) :
    MemoryUnchangedExcept addrs s u := fun x hx => (h' x hx).trans (h x hx)

/-- Equal memories read alike. -/
theorem MemoryUnchangedExcept.of_mem (addrs : List Word) (h : t.mem = s.mem) : MemoryUnchangedExcept addrs s t :=
  fun x _ => by simp only [State.memRead8, h]

/-! ## Registers -/

theorem unchanged_writeR8 (r : R8) (v : Byte) (s : State) : UnchangedExcept [r.cell] s (s.writeR8 r v) := by
  intro x hx
  cases r <;> cases x <;> simp_all [R8.cell, State.cell, State.writeR8]

theorem unchanged_writeRp (p : Rp) (w : Word) (s : State) : UnchangedExcept p.cells s (s.writeRp p w) := by
  intro x hx
  cases p <;> cases x <;> first | rfl | simp [Rp.cells] at hx

theorem unchanged_writeRp2 (p : Rp2) (w : Word) (s : State) : UnchangedExcept p.cells s (s.writeRp2 p w) := by
  intro x hx
  cases p <;> cases x <;> first | rfl | simp [Rp2.cells] at hx

theorem unchanged_setA (v : Byte) (s : State) : UnchangedExcept [.a] s (s.setA v) := unchanged_writeR8 .a v s

theorem unchanged_setF (v : Byte) (s : State) : UnchangedExcept [.f] s (s.setF v) := by
  intro x hx
  cases x <;> simp_all [State.cell]

theorem unchanged_flag (dir : Directives) (s : State) : UnchangedExcept [.f] s (s.flag dir) := unchanged_setF _ s

theorem unchanged_setPc (w : Word) (s : State) : UnchangedExcept [.pc] s (s.setPc w) := by
  intro x hx
  cases x <;> first | rfl | simp at hx

/-! ## Memory -/

theorem unchanged_memWrite8 (x : Word) (v : Byte) (s : State) : UnchangedExcept [] s (s.memWrite8 x v) := by
  intro y _
  cases y <;> rfl

theorem memory_memWrite8 (x : Word) (v : Byte) (s : State) : MemoryUnchangedExcept [x] s (s.memWrite8 x v) := by
  intro y hy
  rw [State.memRead8_memWrite8, if_neg (by simpa using hy)]

theorem unchanged_memWrite16 (x w : Word) (s : State) : UnchangedExcept [] s (s.memWrite16 x w) := by
  intro y _
  cases y <;> rfl

theorem memory_memWrite16 (x w : Word) (s : State) : MemoryUnchangedExcept [x, x + 1] s (s.memWrite16 x w) := by
  intro y hy
  simp only [List.mem_cons, List.not_mem_nil, or_false, not_or] at hy
  rw [State.memRead8_memWrite16, if_neg hy.2, if_neg hy.1]

theorem word_add_one_ne (x : Word) : x + 1 ≠ x := by bv_omega

/-- The two bytes of a stored word (R53). -/
theorem memRead8_memWrite16_low (x w : Word) (s : State) : (s.memWrite16 x w).memRead8 x = loByte w := by
  rw [State.memRead8_memWrite16, if_neg (Ne.symm (word_add_one_ne x)), if_pos rfl]

theorem memRead8_memWrite16_high (x w : Word) (s : State) : (s.memWrite16 x w).memRead8 (x + 1) = hiByte w := by
  rw [State.memRead8_memWrite16, if_pos rfl]

theorem wordAt_memWrite16 (x w : Word) (s : State) : (s.memWrite16 x w).wordAt x = w := by
  rw [State.wordAt, memRead8_memWrite16_low, memRead8_memWrite16_high, wordOf_hiByte_loByte]

theorem memRead16_eq_wordAt (x : Word) (s : State) : s.memRead16 x = s.wordAt x := rfl

/-! ## The stack -/

theorem sub_one_sub_one (x : Word) : x - 1 - 1 = x - 2 := by bv_omega

theorem sub_two_ne (x : Word) : x - 1 ≠ x - 2 := by bv_omega

/-- What a push does (R181). -/
theorem push_stores (w : Word) (s : State) : PushedOnto s (s.push w) w := by
  refine ⟨State.push_sp s w, ?_, ?_, ?_⟩
  · rw [State.memRead8_push, sub_one_sub_one, if_neg (sub_two_ne s.sp), if_pos rfl]
  · rw [State.memRead8_push, sub_one_sub_one, if_pos rfl]
  · intro y hy
    simp only [List.mem_cons, List.not_mem_nil, or_false, not_or] at hy
    rw [State.memRead8_push, sub_one_sub_one, if_neg hy.2, if_neg hy.1]

theorem unchanged_push (w : Word) (s : State) : UnchangedExcept [.sp] s (s.push w) := by
  intro x hx
  cases x <;> first | rfl | simp at hx

/-- What a pop gives (R182). -/
theorem pop_word (s : State) : s.pop.1 = s.wordAt s.sp := rfl

theorem unchanged_pop (s : State) : UnchangedExcept [.sp] s s.pop.2 := by
  intro x hx
  cases x <;> first | rfl | simp at hx

theorem memory_pop (s : State) : MemoryUnchangedExcept [] s s.pop.2 := fun _ _ => rfl

theorem unchanged_popPc (s : State) : UnchangedExcept [.pc, .sp] s s.popPc := by
  intro x hx
  cases x <;> first | rfl | simp at hx

theorem memory_popPc (s : State) : MemoryUnchangedExcept [] s s.popPc := fun _ _ => rfl

/-- What a call does (R361). -/
theorem call_stores (w : Word) (s : State) : PushedOnto s (s.call w) s.pc := push_stores s.pc s

theorem unchanged_call (w : Word) (s : State) : UnchangedExcept [.pc, .sp] s (s.call w) := by
  intro x hx
  cases x <;> first | rfl | simp at hx

/-! ## Results of the ALU -/

/-- Everything `A <- fn!(…)` does (R9). -/
theorem aluToA_result (x : Alu 8) (s : State) :
    (s.aluToA x).a = x.value ∧ (s.aluToA x).flags = (s.flag x.dir).flags ∧
    (s.aluToA x).spareBits = s.spareBits ∧ UnchangedExcept [.a, .f] s (s.aluToA x) ∧
    MemoryUnchangedExcept [] s (s.aluToA x) := by
  have hF : (s.setA x.value).f = s.f := State.setA_f s x.value
  refine ⟨?_, ?_, ?_, ?_, ?_⟩
  · simp [State.aluToA, State.flag]
  · rw [State.aluToA, State.flags_flag, State.flags_flag, State.flags_of_f hF]
  · rw [State.aluToA, State.spareBits_flag, State.spareBits_of_f hF]
  · exact ((unchanged_setA _ s).mono (by simp)).trans ((unchanged_flag _ _).mono (by simp))
  · exact MemoryUnchangedExcept.of_mem _ (by simp [State.aluToA, State.flag])

/-- Everything a flag-only instruction does. -/
theorem flag_result (dir : Directives) (s : State) :
    (s.flag dir).spareBits = s.spareBits ∧ UnchangedExcept [.f] s (s.flag dir) ∧
    MemoryUnchangedExcept [] s (s.flag dir) :=
  ⟨State.spareBits_flag s dir, unchanged_flag dir s, MemoryUnchangedExcept.of_mem _ (by simp [State.flag])⟩

theorem place_aluToR8 (r : R8) (x : Alu 8) (s : State) :
    (s.aluToR8 r x).readR8 r = x.value ∧ (s.aluToR8 r x).flags = (s.flag x.dir).flags ∧
    (s.aluToR8 r x).spareBits = s.spareBits ∧ UnchangedExcept [.f, r.cell] s (s.aluToR8 r x) ∧
    MemoryUnchangedExcept [] s (s.aluToR8 r x) := by
  have hF : (s.writeR8 r x.value).f = s.f := by cases r <;> simp [State.writeR8]
  refine ⟨?_, ?_, ?_, ?_, ?_⟩
  · cases r <;> simp [State.aluToR8, State.flag, State.readR8, State.writeR8]
  · rw [State.aluToR8, State.flags_flag, State.flags_flag, State.flags_of_f hF]
  · rw [State.aluToR8, State.spareBits_flag, State.spareBits_of_f hF]
  · exact ((unchanged_writeR8 r _ s).mono (by simp)).trans ((unchanged_flag _ _).mono (by simp))
  · exact MemoryUnchangedExcept.of_mem _ (by simp [State.aluToR8, State.flag])

theorem place_aluToMem (m : MemOp) (x : Alu 8) (s : State) :
    (s.aluToMem m x).memRead8 (m.ea s) = x.value ∧ (s.aluToMem m x).flags = (s.flag x.dir).flags ∧
    (s.aluToMem m x).spareBits = s.spareBits ∧ UnchangedExcept [.f] s (s.aluToMem m x) ∧
    MemoryUnchangedExcept [m.ea s] s (s.aluToMem m x) := by
  have hF : (s.store m x.value).f = s.f := rfl
  have hmem : (s.aluToMem m x).mem = (s.store m x.value).mem := by simp [State.aluToMem, State.flag]
  refine ⟨?_, ?_, ?_, ?_, ?_⟩
  · rw [State.memRead8, hmem]
    exact Memory.get_set_self ..
  · rw [State.aluToMem, State.flags_flag, State.flags_flag, State.flags_of_f hF]
  · rw [State.aluToMem, State.spareBits_flag, State.spareBits_of_f hF]
  · exact ((unchanged_memWrite8 _ _ s).mono (by simp)).trans (unchanged_flag _ _)
  · exact (memory_memWrite8 _ _ s).trans (MemoryUnchangedExcept.of_mem _ hmem)

/-- A read-modify-write instruction is its ALU function applied in its place. -/
theorem placeResult_of {i : Instr} {p : Place} {s : State} {x : Alu 8} {v : Nat} {fl : FlagValues}
    (hexec : exec i s = .next (match p with | .reg r => s.aluToR8 r x | .mem m => s.aluToMem m x))
    (hv : x.value.toNat = v) (hfl : (s.flag x.dir).flags = fl) : PlaceResult i p s v fl := by
  cases p with
  | reg r =>
    obtain ⟨h1, h2, h3, h4, h5⟩ := place_aluToR8 r x s
    exact ⟨_, hexec, by rw [Place.holds, h1, hv], by rw [h2, hfl], h3, h4, h5⟩
  | mem m =>
    obtain ⟨h1, h2, h3, h4, h5⟩ := place_aluToMem m x s
    exact ⟨_, hexec, by rw [Place.holds, h1, hv], by rw [h2, hfl], h3, h4, h5⟩

/-- An accumulator instruction is its ALU function into A. -/
theorem accumulatorResult_of {i : Instr} {s : State} {x : Alu 8} {v : Nat} {fl : FlagValues}
    (hexec : exec i s = .next (s.aluToA x)) (hv : x.value.toNat = v) (hfl : (s.flag x.dir).flags = fl) :
    AccumulatorResult i s v fl := by
  obtain ⟨h1, h2, h3, h4, h5⟩ := aluToA_result x s
  exact ⟨_, hexec, by rw [h1, hv], by rw [h2, hfl], h3, h4, h5⟩

end Sys2Proof.Machine
end

