-- ==== Sys2Proof/Laws/Exec.lean ====
section
/-! SUPPORT. What each instruction can change, said once: the cells it may write, the addresses it may store to, and that
everything else, the invariant and the spare bits of F are kept. Every claim about all instructions starts from
`exec_kept` and a case split over `Instr.writes`, without unfolding a meaning. -/

namespace Sys2Proof

open Machine (Cell MemOp State)

/-- The cells an instruction may write. -/
def Instr.writes : Instr → List Cell
  | .ldRR dst _ => [dst.cell]
  | .ldRN r _ | .ldRHl r | .ldRIx r _ | .ldRIy r _ => [r.cell]
  | .ldHlR _ | .ldHlN _ | .ldIxR _ _ | .ldIyR _ _ | .ldIxN _ _ | .ldIyN _ _ | .ldBcA | .ldDeA | .ldNnA _ | .ldMemHl _
  | .ldMemDd _ _ | .ldMemIx _ | .ldMemIy _ | .nop => []
  | .ldABc | .ldADe | .ldANn _ => [.a]
  | .ldAI | .ldAR | .addAR _ | .addAN _ | .addAHl | .addAIx _ | .addAIy _ | .adcAR _ | .adcAN _ | .adcAHl | .adcAIx _
  | .adcAIy _ | .subR _ | .subN _ | .subHl | .subIx _ | .subIy _ | .sbcAR _ | .sbcAN _ | .sbcAHl | .sbcAIx _
  | .sbcAIy _ | .andR _ | .andN _ | .andHl | .andIx _ | .andIy _ | .xorR _ | .xorN _ | .xorHl | .xorIx _ | .xorIy _
  | .orR _ | .orN _ | .orHl | .orIx _ | .orIy _ | .cpl | .neg | .rlca | .rrca | .rla | .rra => [.a, .f]
  | .ldIA => [.i]
  | .ldRA => [.r]
  | .ldDdNn dd _ | .ldDdMem dd _ => dd.cells
  | .ldIxNn _ | .ldIxMem _ | .exSpIx | .incIx | .decIx => [.ix]
  | .ldIyNn _ | .ldIyMem _ | .exSpIy | .incIy | .decIy => [.iy]
  | .ldHlMem _ | .exSpHl => [.h, .l]
  | .ldSpHl | .ldSpIx | .ldSpIy | .pushQq _ | .pushIx | .pushIy => [.sp]
  | .popQq qq => .sp :: qq.cells
  | .popIx => [.sp, .ix]
  | .popIy => [.sp, .iy]
  | .exDeHl => [.d, .e, .h, .l]
  | .exAfAf => [.a, .f, .af']
  | .exx => [.b, .c, .d, .e, .h, .l, .bc', .de', .hl']
  | .cpR _ | .cpN _ | .cpHl | .cpIx _ | .cpIy _ | .incMemHl | .incMemIx _ | .incMemIy _ | .decMemHl | .decMemIx _
  | .decMemIy _ | .ccf | .scf | .rlcHl | .rlcIx _ | .rlcIy _ | .rrcHl | .rrcIx _ | .rrcIy _ | .rlHl | .rlIx _
  | .rlIy _ | .rrHl | .rrIx _ | .rrIy _ | .slaHl | .slaIx _ | .slaIy _ | .sraHl | .sraIx _ | .sraIy _ | .srlHl
  | .srlIx _ | .srlIy _ => [.f]
  | .incR r | .decR r | .rlcR r | .rrcR r | .rlR r | .rrR r | .slaR r | .sraR r | .srlR r => [.f, r.cell]
  | .addHlSs _ | .adcHlSs _ | .sbcHlSs _ => [.h, .l, .f]
  | .addIxPp _ => [.ix, .f]
  | .addIyRr _ => [.iy, .f]
  | .incSs ss | .decSs ss => ss.cells
  | .jpNn _ | .jpCc _ _ | .jr _ | .jrCc _ _ | .jpHl | .jpIx | .jpIy => [.pc]
  | .djnz _ => [.b, .pc]
  | .callNn _ | .callCc _ _ | .ret | .retCc _ | .reti | .rst _ => [.pc, .sp]
  | .retn => [.pc, .sp, .iff1]
  | .di | .ei => [.iff1, .iff2]

/-- The addresses an instruction may store to, in the state in which its routine starts. -/
def Instr.stores : Instr → State → List Word
  | .ldHlR _, s | .ldHlN _, s | .incMemHl, s | .decMemHl, s | .rlcHl, s | .rrcHl, s | .rlHl, s | .rrHl, s | .slaHl, s
  | .sraHl, s | .srlHl, s => [MemOp.hl.ea s]
  | .ldIxR d _, s | .ldIxN d _, s | .incMemIx d, s | .decMemIx d, s | .rlcIx d, s | .rrcIx d, s | .rlIx d, s
  | .rrIx d, s | .slaIx d, s | .sraIx d, s | .srlIx d, s => [(MemOp.ix d).ea s]
  | .ldIyR d _, s | .ldIyN d _, s | .incMemIy d, s | .decMemIy d, s | .rlcIy d, s | .rrcIy d, s | .rlIy d, s
  | .rrIy d, s | .slaIy d, s | .sraIy d, s | .srlIy d, s => [(MemOp.iy d).ea s]
  | .ldBcA, s => [MemOp.bc.ea s]
  | .ldDeA, s => [MemOp.de.ea s]
  | .ldNnA nn, s => [(MemOp.abs nn).ea s]
  | .ldMemHl nn, _ | .ldMemDd nn _, _ | .ldMemIx nn, _ | .ldMemIy nn, _ => [nn, nn + 1]
  | .pushQq _, s | .pushIx, s | .pushIy, s | .callNn _, s | .callCc _ _, s | .rst _, s => [s.sp - 1, s.sp - 2]
  | .exSpHl, s | .exSpIx, s | .exSpIy, s => [s.sp, s.sp + 1]
  | _, _ => []

/-- The two instructions that replace F as a whole cell (R27). -/
def Instr.transfersF : Instr → Bool
  | .popQq qq => qq == .af
  | .exAfAf => true
  | _ => false

namespace Machine

/-- The footprint of an update: only the given cells and bytes change, the invariant is kept, and so are the spare bits
of F unless the update moves F as a whole. -/
structure Kept (movesF : Bool) (cells : List Cell) (addrs : List Word) (s t : State) : Prop where
  cells  : UnchangedExcept cells s t
  memory : MemoryUnchangedExcept addrs s t
  inv    : s.Inv → t.Inv
  spare  : movesF = false → t.spareBits = s.spareBits

variable {m : Bool} {cells : List Cell} {addrs : List Word} {s t u : State}

theorem of_next (h : (Host.Outcome.next u : Result) = .next t) (k : Kept m cells addrs s u) :
    Kept m cells addrs s t := by
  obtain rfl := Host.Outcome.next.inj h
  exact k

theorem kept_refl (cells : List Cell) (addrs : List Word) (s : State) : Kept m cells addrs s s :=
  ⟨.refl _ _, .refl _ _, id, fun _ => rfl⟩

theorem kept_ite (b : Bool) (ht : Kept m cells addrs s t) (hu : Kept m cells addrs s u) :
    Kept m cells addrs s (if b then t else u) := by
  split
  · exact ht
  · exact hu

/-- An update of registers: memory and F stay. -/
theorem kept_registers (hc : UnchangedExcept cells s t) (hm : t.mem = s.mem) (hf : t.f = s.f) :
    Kept m cells addrs s t :=
  ⟨hc, .of_mem _ hm, fun h => by rw [State.Inv, hm]; exact h, fun _ => State.spareBits_of_f hf⟩

/-! ## Registers -/

theorem kept_writeR8 (r : R8) (v : Byte) (s : State) : Kept m [r.cell] [] s (s.writeR8 r v) :=
  kept_registers (unchanged_writeR8 r v s) (State.writeR8_mem ..) (State.writeR8_f ..)

theorem kept_writeRp (p : Rp) (w : Word) (s : State) : Kept m p.cells [] s (s.writeRp p w) :=
  kept_registers (unchanged_writeRp p w s) (by cases p <;> rfl) (by cases p <;> rfl)

theorem kept_setI (v : Byte) (s : State) : Kept m [.i] [] s (s.setI v) := by
  refine kept_registers (fun x hx => ?_) rfl rfl
  cases x <;> first | rfl | exact absurd hx (by decide) | simp [State.cell]

theorem kept_setR (v : Byte) (s : State) : Kept m [.r] [] s (s.setR v) := by
  refine kept_registers (fun x hx => ?_) rfl rfl
  cases x <;> first | rfl | exact absurd hx (by decide) | simp [State.cell]

theorem kept_setPc (w : Word) (s : State) : Kept m [.pc] [] s (s.setPc w) :=
  kept_registers (unchanged_setPc w s) rfl rfl

theorem kept_hl (w : Word) (s : State) : Kept m [.h, .l] [] s { s with hl := w } := by
  refine kept_registers (fun x hx => ?_) rfl rfl
  cases x <;> first | rfl | exact absurd hx (by decide)

theorem kept_ix (w : Word) (s : State) : Kept m [.ix] [] s { s with ix := w } := by
  refine kept_registers (fun x hx => ?_) rfl rfl
  cases x <;> first | rfl | exact absurd hx (by decide)

theorem kept_iy (w : Word) (s : State) : Kept m [.iy] [] s { s with iy := w } := by
  refine kept_registers (fun x hx => ?_) rfl rfl
  cases x <;> first | rfl | exact absurd hx (by decide)

theorem kept_sp (w : Word) (s : State) : Kept m [.sp] [] s { s with sp := w } := by
  refine kept_registers (fun x hx => ?_) rfl rfl
  cases x <;> first | rfl | exact absurd hx (by decide)

theorem kept_iffs (b1 b2 : Bool) (s : State) : Kept m [.iff1, .iff2] [] s { s with iff1 := b1, iff2 := b2 } := by
  refine kept_registers (fun x hx => ?_) rfl rfl
  cases x <;> first | rfl | exact absurd hx (by decide)

theorem kept_exDeHl (s : State) : Kept m [.d, .e, .h, .l] [] s { s with de := s.hl, hl := s.de } := by
  refine kept_registers (fun x hx => ?_) rfl rfl
  cases x <;> first | rfl | exact absurd hx (by decide)

theorem kept_exx (s : State) :
    Kept m [.b, .c, .d, .e, .h, .l, .bc', .de', .hl'] []
      s { s with bc := s.bc', bc' := s.bc, de := s.de', de' := s.de, hl := s.hl', hl' := s.hl } := by
  refine kept_registers (fun x hx => ?_) rfl rfl
  cases x <;> first | rfl | exact absurd hx (by decide)

theorem kept_exAfAf (s : State) : Kept true [.a, .f, .af'] [] s { s with af := s.af', af' := s.af } := by
  refine ⟨fun x hx => ?_, fun _ _ => rfl, id, fun h => absurd h (by decide)⟩
  cases x <;> first | rfl | exact absurd hx (by decide)

theorem kept_djnz (e : Byte) (s : State) :
    Kept m [.b, .pc] [] s (if s.b - 1 = 0 then s.setB (s.b - 1) else (s.setB (s.b - 1)).jumpRelative e) := by
  have hb : UnchangedExcept [.b, .pc] s (s.setB (s.b - 1)) := (unchanged_writeR8 .b _ s).mono (by decide)
  split
  · exact kept_registers hb rfl (State.setB_f ..)
  · exact kept_registers (hb.trans ((unchanged_setPc _ _).mono (by decide))) rfl
      (State.setB_f s (s.b - 1))

/-! ## Memory and the stack -/

theorem kept_memWrite8 (x : Word) (v : Byte) (s : State) : Kept m [] [x] s (s.memWrite8 x v) :=
  ⟨unchanged_memWrite8 x v s, memory_memWrite8 x v s, State.wf_memWrite8 x v, fun _ => rfl⟩

theorem kept_memWrite16 (x w : Word) (s : State) : Kept m [] [x, x + 1] s (s.memWrite16 x w) :=
  ⟨unchanged_memWrite16 x w s, memory_memWrite16 x w s, State.wf_memWrite16 x w, fun _ => rfl⟩

theorem kept_exchange_hl (x w v : Word) (s : State) :
    Kept m [.h, .l] [x, x + 1] s { s.memWrite16 x w with hl := v } := by
  refine ⟨fun y hy => ?_, memory_memWrite16 x w s, State.wf_memWrite16 x w, fun _ => rfl⟩
  cases y <;> first | rfl | exact absurd hy (by decide)

theorem kept_exchange_ix (x w v : Word) (s : State) : Kept m [.ix] [x, x + 1] s { s.memWrite16 x w with ix := v } := by
  refine ⟨fun y hy => ?_, memory_memWrite16 x w s, State.wf_memWrite16 x w, fun _ => rfl⟩
  cases y <;> first | rfl | exact absurd hy (by decide)

theorem kept_exchange_iy (x w v : Word) (s : State) : Kept m [.iy] [x, x + 1] s { s.memWrite16 x w with iy := v } := by
  refine ⟨fun y hy => ?_, memory_memWrite16 x w s, State.wf_memWrite16 x w, fun _ => rfl⟩
  cases y <;> first | rfl | exact absurd hy (by decide)

theorem kept_push (w : Word) (s : State) : Kept m [.sp] [s.sp - 1, s.sp - 2] s (s.push w) :=
  ⟨unchanged_push w s, (push_stores w s).2.2.2, State.wf_push w, fun _ => rfl⟩

theorem kept_call (w : Word) (s : State) : Kept m [.pc, .sp] [s.sp - 1, s.sp - 2] s (s.call w) :=
  ⟨unchanged_call w s, (call_stores w s).2.2.2, State.wf_push s.pc, fun _ => rfl⟩

theorem kept_popPc (s : State) : Kept m [.pc, .sp] [] s s.popPc :=
  ⟨unchanged_popPc s, memory_popPc s, id, fun _ => rfl⟩

theorem kept_retn (s : State) : Kept m [.pc, .sp, .iff1] [] s { s.popPc with iff1 := s.iff2 } := by
  refine kept_registers (fun x hx => ?_) rfl rfl
  cases x <;> first | rfl | exact absurd hx (by decide)

theorem kept_pop_ix (s : State) : Kept m [.sp, .ix] [] s { s.pop.2 with ix := s.pop.1 } := by
  refine kept_registers (fun x hx => ?_) rfl rfl
  cases x <;> first | rfl | exact absurd hx (by decide)

theorem kept_pop_iy (s : State) : Kept m [.sp, .iy] [] s { s.pop.2 with iy := s.pop.1 } := by
  refine kept_registers (fun x hx => ?_) rfl rfl
  cases x <;> first | rfl | exact absurd hx (by decide)

theorem kept_popQq (qq : Rp2) (s : State) :
    Kept (qq == .af) (.sp :: qq.cells) [] s (s.pop.2.writeRp2 qq s.pop.1) := by
  refine ⟨((unchanged_pop s).mono (by simp)).trans ((unchanged_writeRp2 qq _ _).mono fun _ => List.mem_cons_of_mem _),
    fun _ _ => by cases qq <;> rfl, fun h => by cases qq <;> exact h, fun h => ?_⟩
  cases qq <;> first | rfl | exact absurd h (by decide)

/-! ## Results of the ALU -/

theorem kept_flag (dir : Directives) (s : State) : Kept m [.f] [] s (s.flag dir) :=
  ⟨unchanged_flag dir s, (flag_result dir s).2.2, id, fun _ => State.spareBits_flag s dir⟩

theorem kept_aluToA (x : Alu 8) (s : State) : Kept m [.a, .f] [] s (s.aluToA x) :=
  ⟨(aluToA_result x s).2.2.2.1, (aluToA_result x s).2.2.2.2, id, fun _ => (aluToA_result x s).2.2.1⟩

theorem kept_aluToR8 (r : R8) (x : Alu 8) (s : State) : Kept m [.f, r.cell] [] s (s.aluToR8 r x) := by
  obtain ⟨-, -, hs, hc, hm⟩ := place_aluToR8 r x s
  refine ⟨hc, hm, fun h => ?_, fun _ => hs⟩
  have : (s.aluToR8 r x).mem = s.mem := State.writeR8_mem ..
  rw [State.Inv, this]
  exact h

theorem kept_aluToMem (op : MemOp) (x : Alu 8) (s : State) : Kept m [.f] [op.ea s] s (s.aluToMem op x) := by
  obtain ⟨-, -, hs, hc, hm⟩ := place_aluToMem op x s
  exact ⟨hc, hm, State.wf_memWrite8 _ _, fun _ => hs⟩

theorem kept_aluToHl (x : Alu 16) (s : State) : Kept m [.h, .l, .f] [] s (s.aluToHl x) := by
  refine ⟨?_, fun _ _ => rfl, id, fun _ => State.spareBits_flag ..⟩
  exact ((kept_hl (m := false) x.value s).cells.mono (by decide)).trans ((unchanged_flag x.dir _).mono (by decide))

theorem kept_aluToIx (x : Alu 16) (s : State) : Kept m [.ix, .f] [] s (s.aluToIx x) := by
  refine ⟨?_, fun _ _ => rfl, id, fun _ => State.spareBits_flag ..⟩
  exact ((kept_ix (m := false) x.value s).cells.mono (by decide)).trans ((unchanged_flag x.dir _).mono (by decide))

theorem kept_aluToIy (x : Alu 16) (s : State) : Kept m [.iy, .f] [] s (s.aluToIy x) := by
  refine ⟨?_, fun _ _ => rfl, id, fun _ => State.spareBits_flag ..⟩
  exact ((kept_iy (m := false) x.value s).cells.mono (by decide)).trans ((unchanged_flag x.dir _).mono (by decide))

/-! ## Every instruction -/

/-- What `exec` keeps, for every instruction. -/
theorem exec_kept : ∀ (i : Instr) (s t : State), exec i s = .next t → Kept i.transfersF i.writes (i.stores s) s t
  | .ldRR _ _, _, _, h | .ldRN _ _, _, _, h | .ldRHl _, _, _, h | .ldRIx _ _, _, _, h | .ldRIy _ _, _, _, h =>
    of_next h (kept_writeR8 _ _ _)
  | .ldHlR _, _, _, h | .ldHlN _, _, _, h | .ldIxR _ _, _, _, h | .ldIyR _ _, _, _, h | .ldIxN _ _, _, _, h
  | .ldIyN _ _, _, _, h | .ldBcA, _, _, h | .ldDeA, _, _, h | .ldNnA _, _, _, h => of_next h (kept_memWrite8 _ _ _)
  | .ldABc, _, _, h | .ldADe, _, _, h | .ldANn _, _, _, h => of_next h (kept_writeR8 .a _ _)
  | .ldAI, _, _, h | .ldAR, _, _, h | .cpl, _, _, h | .rlca, _, _, h | .rrca, _, _, h | .rla, _, _, h | .rra, _, _, h =>
    of_next h (kept_aluToA ⟨_, _⟩ _)
  | .ldIA, _, _, h => of_next h (kept_setI _ _)
  | .ldRA, _, _, h => of_next h (kept_setR _ _)
  | .ldDdNn _ _, _, _, h | .ldDdMem _ _, _, _, h | .incSs _, _, _, h | .decSs _, _, _, h =>
    of_next h (kept_writeRp _ _ _)
  | .ldIxNn _, _, _, h | .ldIxMem _, _, _, h | .incIx, _, _, h | .decIx, _, _, h => of_next h (kept_ix _ _)
  | .ldIyNn _, _, _, h | .ldIyMem _, _, _, h | .incIy, _, _, h | .decIy, _, _, h => of_next h (kept_iy _ _)
  | .ldHlMem _, _, _, h => of_next h (kept_hl _ _)
  | .ldMemHl _, _, _, h | .ldMemDd _ _, _, _, h | .ldMemIx _, _, _, h | .ldMemIy _, _, _, h =>
    of_next h (kept_memWrite16 _ _ _)
  | .ldSpHl, _, _, h | .ldSpIx, _, _, h | .ldSpIy, _, _, h => of_next h (kept_sp _ _)
  | .pushQq _, _, _, h | .pushIx, _, _, h | .pushIy, _, _, h => of_next h (kept_push _ _)
  | .popQq _, _, _, h => of_next h (kept_popQq _ _)
  | .popIx, _, _, h => of_next h (kept_pop_ix _)
  | .popIy, _, _, h => of_next h (kept_pop_iy _)
  | .exDeHl, _, _, h => of_next h (kept_exDeHl _)
  | .exAfAf, _, _, h => of_next h (kept_exAfAf _)
  | .exx, _, _, h => of_next h (kept_exx _)
  | .exSpHl, _, _, h => of_next h (kept_exchange_hl _ _ _ _)
  | .exSpIx, _, _, h => of_next h (kept_exchange_ix _ _ _ _)
  | .exSpIy, _, _, h => of_next h (kept_exchange_iy _ _ _ _)
  | .addAR _, _, _, h | .addAN _, _, _, h | .addAHl, _, _, h | .addAIx _, _, _, h | .addAIy _, _, _, h
  | .adcAR _, _, _, h | .adcAN _, _, _, h | .adcAHl, _, _, h | .adcAIx _, _, _, h | .adcAIy _, _, _, h
  | .subR _, _, _, h | .subN _, _, _, h | .subHl, _, _, h | .subIx _, _, _, h | .subIy _, _, _, h | .sbcAR _, _, _, h
  | .sbcAN _, _, _, h | .sbcAHl, _, _, h | .sbcAIx _, _, _, h | .sbcAIy _, _, _, h | .andR _, _, _, h
  | .andN _, _, _, h | .andHl, _, _, h | .andIx _, _, _, h | .andIy _, _, _, h | .xorR _, _, _, h | .xorN _, _, _, h
  | .xorHl, _, _, h | .xorIx _, _, _, h | .xorIy _, _, _, h | .orR _, _, _, h | .orN _, _, _, h | .orHl, _, _, h
  | .orIx _, _, _, h | .orIy _, _, _, h | .neg, _, _, h => of_next h (kept_aluToA _ _)
  | .cpR _, _, _, h | .cpN _, _, _, h | .cpHl, _, _, h | .cpIx _, _, _, h | .cpIy _, _, _, h | .ccf, _, _, h
  | .scf, _, _, h => of_next h (kept_flag _ _)
  | .incR _, _, _, h | .decR _, _, _, h | .rlcR _, _, _, h | .rrcR _, _, _, h | .rlR _, _, _, h | .rrR _, _, _, h
  | .slaR _, _, _, h | .sraR _, _, _, h | .srlR _, _, _, h => of_next h (kept_aluToR8 _ _ _)
  | .incMemHl, _, _, h | .incMemIx _, _, _, h | .incMemIy _, _, _, h | .decMemHl, _, _, h | .decMemIx _, _, _, h
  | .decMemIy _, _, _, h | .rlcHl, _, _, h | .rlcIx _, _, _, h | .rlcIy _, _, _, h | .rrcHl, _, _, h
  | .rrcIx _, _, _, h | .rrcIy _, _, _, h | .rlHl, _, _, h | .rlIx _, _, _, h | .rlIy _, _, _, h | .rrHl, _, _, h
  | .rrIx _, _, _, h | .rrIy _, _, _, h | .slaHl, _, _, h | .slaIx _, _, _, h | .slaIy _, _, _, h | .sraHl, _, _, h
  | .sraIx _, _, _, h | .sraIy _, _, _, h | .srlHl, _, _, h | .srlIx _, _, _, h | .srlIy _, _, _, h =>
    of_next h (kept_aluToMem _ _ _)
  | .addHlSs _, _, _, h | .adcHlSs _, _, _, h | .sbcHlSs _, _, _, h => of_next h (kept_aluToHl _ _)
  | .addIxPp _, _, _, h => of_next h (kept_aluToIx _ _)
  | .addIyRr _, _, _, h => of_next h (kept_aluToIy _ _)
  | .jpNn _, _, _, h | .jr _, _, _, h | .jpHl, _, _, h | .jpIx, _, _, h | .jpIy, _, _, h => of_next h (kept_setPc _ _)
  | .jpCc _ _, _, _, h | .jrCc _ _, _, _, h => of_next h (kept_ite _ (kept_setPc _ _) (kept_refl _ _ _))
  | .djnz _, _, _, h => of_next h (kept_djnz _ _)
  | .callNn _, _, _, h | .rst _, _, _, h => of_next h (kept_call _ _)
  | .callCc _ _, _, _, h => of_next h (kept_ite _ (kept_call _ _) (kept_refl _ _ _))
  | .ret, _, _, h | .reti, _, _, h => of_next h (kept_popPc _)
  | .retCc _, _, _, h => of_next h (kept_ite _ (kept_popPc _) (kept_refl _ _ _))
  | .retn, _, _, h => of_next h (kept_retn _)
  | .nop, _, _, h => of_next h (kept_refl _ _ _)
  | .di, _, _, h | .ei, _, _, h => of_next h (kept_iffs _ _ _)

end Machine

end Sys2Proof
end

