-- ==== Sys2Proof/Laws/Step.lean ====
section
/-! SUPPORT. What one run of the dispatcher can do (spec/30_encoding.md R79 to R83): every execution routine answers a
next state, so a run faults exactly when no descriptor matches, and otherwise runs the selected one. -/

namespace Sys2Proof.Machine

/-- Every execution routine completes (R10, R384). -/
theorem exec_next (i : Instr) (s : State) : ∃ t, exec i s = .next t := by cases i <;> exact ⟨_, rfl⟩

/-! ## The bytes at PC -/

theorem maxLength_baseline : Catalog.maxLength baseline = 4 := by decide +kernel

theorem window_baseline (s : State) : s.window baseline = s.bytesFrom 4 s.pc := by
  rw [State.window, maxLength_baseline]

theorem window_baselineCatalog (s : State) : s.window baselineCatalog = s.bytesFrom 4 s.pc := by
  rw [State.window, baselineCatalog, maxLength_map, maxLength_baseline]

theorem selectDescriptor_baselineCatalog (bytes : List Byte) :
    selectDescriptor baselineCatalog bytes = (selectDescriptor baseline bytes).map (Descriptor.map routineOf) :=
  selectDescriptor_map ..

theorem fetchCount_baselineCatalog (bytes : List Byte) : fetchCount baselineCatalog bytes = fetchCount baseline bytes :=
  fetchCount_map ..

/-- The routine of an instruction whose meaning answers a next state. -/
theorem routineOf_of_next {i : Instr} {s t : State} (h : exec i s = .next t) : routineOf i s = .ok (t, alternate i s) := by
  simp only [routineOf, h]

theorem bytesFrom_four (s : State) (x : Word) :
    s.bytesFrom 4 x = [s.memRead8 x, s.memRead8 (x + 1), s.memRead8 (x + 1 + 1), s.memRead8 (x + 1 + 1 + 1)] := rfl

@[simp] theorem length_bytesFrom (n : Nat) (x : Word) (s : State) : (s.bytesFrom n x).length = n := by
  induction n generalizing x with
  | zero => rfl
  | succ n ih => rw [State.bytesFrom, List.length_cons, ih]

/-- The k-th byte fetched is the one at the k-th address from PC, which wraps (R81). -/
theorem getElem?_bytesFrom {n k : Nat} (x : Word) (s : State) (h : k < n) :
    (s.bytesFrom n x)[k]? = some (s.memRead8 (x + BitVec.ofNat 16 k)) := by
  induction n generalizing k x with
  | zero => omega
  | succ n ih =>
    cases k with
    | zero => simp [State.bytesFrom]
    | succ k =>
      have hx : x + 1 + BitVec.ofNat 16 k = x + BitVec.ofNat 16 (k + 1) := by
        apply BitVec.eq_of_toNat_eq
        simp [BitVec.toNat_add]
        omega
      rw [State.bytesFrom, List.getElem?_cons_succ, ih (x + 1) (by omega), hx]

/-- The first bytes of a longer window are the shorter window. -/
theorem take_bytesFrom {m n : Nat} (x : Word) (s : State) (h : m ≤ n) :
    (s.bytesFrom n x).take m = s.bytesFrom m x := by
  induction m generalizing n x with
  | zero => simp [State.bytesFrom]
  | succ m ih =>
    cases n with
    | zero => omega
    | succ n => rw [State.bytesFrom, List.take_succ_cons, ih (x + 1) (by omega), State.bytesFrom]

theorem length_le_maxLength {cat : Catalog α} {d : Descriptor α} (h : d ∈ cat) : d.length ≤ cat.maxLength := by
  induction cat with
  | nil => simp at h
  | cons e es ih =>
    rw [Catalog.maxLength]
    rcases List.mem_cons.mp h with rfl | h
    · exact Nat.le_max_left ..
    · exact (ih h).trans (Nat.le_max_right ..)

/-! ## The dispatcher -/

/-- No descriptor matches: IllegalOpcode, with the bytes fetched (R81, R93). -/
theorem dispatchOn_none {cat : Catalog Routine} {bytes : List Byte} (s : State) (h : selectDescriptor cat bytes = none) :
    dispatchOn cat bytes s = .fault (.illegalOpcode s.pc (bytes.take (fetchCount cat bytes))) := by
  simp only [dispatchOn, h]
  rfl

/-- A descriptor matches: its routine runs with PC after the instruction, and the run reports the cost its signal chooses
(R79, R82, R83). -/
theorem dispatchOn_some {cat : Catalog Routine} {bytes : List Byte} {s t : State} {d : Descriptor Routine} {r : Routine}
    {alt : Bool} (h : selectDescriptor cat bytes = some d) (hr : d.routine (extractAll d.rules bytes) = some r)
    (ht : r (s.advance d.length) = .ok (t, alt)) :
    dispatchOn cat bytes s = .next { state := t, cycles := d.cycles alt, fetched := fetchCount cat bytes } := by
  simp only [dispatchOn, h, hr, ht]

/-- A run of the dispatcher answers in one of three ways, whatever the catalog. -/
theorem dispatchOn_cases (cat : Catalog Routine) (bytes : List Byte) (s : State) :
    (selectDescriptor cat bytes = none ∧
      dispatchOn cat bytes s = .fault (.illegalOpcode s.pc (bytes.take (fetchCount cat bytes)))) ∨
    (∃ d r t alt, selectDescriptor cat bytes = some d ∧ d.routine (extractAll d.rules bytes) = some r ∧
      r (s.advance d.length) = .ok (t, alt) ∧
      dispatchOn cat bytes s = .next { state := t, cycles := d.cycles alt, fetched := fetchCount cat bytes }) ∨
    ∃ e, dispatchOn cat bytes s = .refused e := by
  cases h : selectDescriptor cat bytes with
  | none => exact .inl ⟨rfl, dispatchOn_none s h⟩
  | some d =>
    cases hr : d.routine (extractAll d.rules bytes) with
    | none => exact .inr (.inr ⟨.undefinedSelector d.mnemonic, by simp only [dispatchOn, h, hr]⟩)
    | some r =>
      cases ht : r (s.advance d.length) with
      | ok x => exact .inr (.inl ⟨d, r, x.1, x.2, rfl, hr, ht, dispatchOn_some h hr ht⟩)
      | error e => exact .inr (.inr ⟨e, by simp only [dispatchOn, h, hr, ht]⟩)

/-- A descriptor of the baseline matches: the instruction it names runs. -/
theorem dispatchOn_baseline_some {bytes : List Byte} {s t : State} {d : Descriptor Instr} {i : Instr}
    (h : selectDescriptor baseline bytes = some d) (hi : d.routine (extractAll d.rules bytes) = some i)
    (ht : exec i (s.advance d.length) = .next t) :
    dispatchOn baselineCatalog bytes s =
      .next { state := t, cycles := d.cycles (alternate i (s.advance d.length)), fetched := fetchCount baseline bytes } := by
  rw [← fetchCount_baselineCatalog]
  exact dispatchOn_some (d := d.map routineOf) (r := routineOf i) (by rw [selectDescriptor_baselineCatalog, h]; rfl)
    (by simp [hi]) (routineOf_of_next ht)

/-- A run of the dispatcher with the baseline: IllegalOpcode when nothing matches, else the instruction the selected
descriptor names. -/
theorem dispatchOn_baseline_cases (bytes : List Byte) (s : State) :
    (selectDescriptor baseline bytes = none ∧
      dispatchOn baselineCatalog bytes s = .fault (.illegalOpcode s.pc (bytes.take (fetchCount baseline bytes)))) ∨
    (∃ d i t, selectDescriptor baseline bytes = some d ∧ d.routine (extractAll d.rules bytes) = some i ∧
      exec i (s.advance d.length) = .next t ∧
      dispatchOn baselineCatalog bytes s =
        .next { state := t, cycles := d.cycles (alternate i (s.advance d.length)), fetched := fetchCount baseline bytes }) ∨
    (∃ d, selectDescriptor baseline bytes = some d ∧ d.routine (extractAll d.rules bytes) = none ∧
      dispatchOn baselineCatalog bytes s = .refused (.undefinedSelector d.mnemonic)) := by
  cases h : selectDescriptor baseline bytes with
  | none =>
    refine .inl ⟨rfl, ?_⟩
    rw [← fetchCount_baselineCatalog]
    exact dispatchOn_none s (by rw [selectDescriptor_baselineCatalog, h]; rfl)
  | some d =>
    cases hi : d.routine (extractAll d.rules bytes) with
    | none =>
      refine .inr (.inr ⟨d, rfl, hi, ?_⟩)
      simp only [dispatchOn, selectDescriptor_baselineCatalog, h, Option.map_some, Descriptor.map_routine,
        Descriptor.map_rules, hi, Option.map_none, Descriptor.map_mnemonic]
    | some i =>
      obtain ⟨t, ht⟩ := exec_next i (s.advance d.length)
      exact .inr (.inl ⟨d, i, t, rfl, hi, ht, dispatchOn_baseline_some h hi ht⟩)

/-- The step is the dispatcher with the baseline catalog. -/
theorem step_eq_dispatchWith (s : State) : step s = stateOf (dispatchWith baselineCatalog s) := by
  rw [step, dispatchWith, window_baselineCatalog]

/-- What a step that answers a next state did: it decoded an instruction at PC and ran its meaning. -/
theorem step_next {s t : State} (h : step s = .next t) :
    ∃ d i, selectDescriptor baseline (s.bytesFrom 4 s.pc) = some d ∧
      d.routine (extractAll d.rules (s.bytesFrom 4 s.pc)) = some i ∧ exec i (s.advance d.length) = .next t := by
  rw [step] at h
  rcases dispatchOn_baseline_cases (s.bytesFrom 4 s.pc) s with ⟨-, hd⟩ | ⟨d, i, u, hs, hi, hu, hd⟩ | ⟨d, -, -, hd⟩
  · simp [hd, stateOf] at h
  · rw [hd, stateOf] at h
    exact ⟨d, i, hs, hi, hu.trans h⟩
  · simp [hd, stateOf] at h

end Sys2Proof.Machine
end

