-- ==== Sys2Proof/Tests/Slice0.lean ====
section
/-! SUPPORT. The model's own tests. Words are written out from the bit patterns of spec/opcode_table.json, expected
results are the examples of the instruction rules and of spec/95_test_vectors.md; nothing here is the model's own
answer. The last part shows, for each statement with hypotheses, a concrete state and operands that meet them. -/

namespace Sys2Proof.Machine

/-! ## Helpers -/

/-- The instruction a byte string decodes to, when nothing is left over. -/
def instrOf (bytes : List Byte) : Option Instr :=
  match decode bytes with
  | .ok (i, []) => some i
  | _ => none

/-- The bytes the decoder reports with IllegalOpcode. -/
def illegalBytes (bytes : List Byte) : Option (List Byte) :=
  match decode bytes with
  | .error (.illegalOpcode fetched) => some fetched
  | _ => none

/-- A state with every cell zero but those set, and bytes placed at PC. -/
def testState (pc : Word) (bytes : List Byte) (setup : List CallerAction) : State :=
  (applyActions setup { State.launch Config.initRegs [] with pc := pc }).writeBytes bytes pc

/-- One step from `testState` leaves these cells and bytes and reports this cycle count. -/
def leads (pc : Word) (bytes : List Byte) (setup : List CallerAction) (cells : List (Cell × Nat))
    (mem : List (Word × Byte)) (cycles : Nat) : Bool :=
  match dispatchWith baselineCatalog (testState pc bytes setup) with
  | .next r => cells.all (fun x => r.state.cell x.1 == x.2) && mem.all (fun x => r.state.memRead8 x.1 == x.2) &&
      r.cycles == cycles && r.fetched == bytes.length
  | _ => false

/-- The next state of an outcome, when it is one. -/
def nextOf : Result → Option State
  | .next t => some t
  | _ => none

/-- The fault of an outcome, when it is one. -/
def faultOf : Result → Option Fault
  | .fault r => some r
  | _ => none

theorem eq_next_of_nextOf {x : Result} (h : (nextOf x).isSome = true) : ∃ t, x = .next t := by
  cases x with
  | next t => exact ⟨t, rfl⟩
  | fault r => simp [nextOf] at h
  | refused r => simp [nextOf] at h

/-! ## Well-formedness -/

theorem test_wf_refuses_jr_po : (Instr.jrCc .po 0x00).wf = false := by decide
theorem test_wf_accepts_jr_c : (Instr.jrCc .c 0x00).wf = true := by decide
theorem test_wf_refuses_rst_05 : (Instr.rst 0x05).wf = false := by decide
theorem test_wf_refuses_rst_40 : (Instr.rst 0x40).wf = false := by decide
theorem test_wf_accepts_rst_38 : (Instr.rst 0x38).wf = true := by decide

/-! ## Decoding: one word of every constructor, bit by bit from the table's encoding -/

theorem test_decode_load8 :
    [
    [0b01010001], [0b00011110, 0xFE], [0b01000110], [0b01110111], [0b00110110, 0xA5],
    [0b11011101, 0b01000110, 0x80], [0b11111101, 0b01100110, 0xFE], [0b11011101, 0b01110001, 0xA5],
    [0b11111101, 0b01110000, 0xFE], [0b11011101, 0b00110110, 0x7F, 0x7F], [0b11111101, 0b00110110, 0xFE, 0x05],
    [0b00001010], [0b00011010], [0b00111010, 0x34, 0x12], [0b00000010], [0b00010010], [0b00110010, 0x01, 0x80],
    [0b11101101, 0b01010111], [0b11101101, 0b01011111], [0b11101101, 0b01000111], [0b11101101, 0b01001111]].map instrOf =
    ([
    .ldRR .d .c, .ldRN .e 0xFE, .ldRHl .b, .ldHlR .a, .ldHlN 0xA5, .ldRIx .b 0x80, .ldRIy .h 0xFE, .ldIxR 0xA5 .c,
    .ldIyR 0xFE .b, .ldIxN 0x7F 0x7F, .ldIyN 0xFE 0x05, .ldABc, .ldADe, .ldANn 0x1234, .ldBcA, .ldDeA,
    .ldNnA 0x8001, .ldAI, .ldAR, .ldIA, .ldRA] : List Instr).map some := by decide +kernel

theorem test_decode_load16_a :
    [
    [0b00110001, 0x34, 0x12], [0b11011101, 0b00100001, 0x01, 0x80], [0b11111101, 0b00100001, 0x34, 0x12],
    [0b00101010, 0x34, 0x12], [0b11101101, 0b01001011, 0x01, 0x80], [0b11011101, 0b00101010, 0x01, 0x80],
    [0b11111101, 0b00101010, 0xFE, 0xFF], [0b00100010, 0x34, 0x12], [0b11101101, 0b01000011, 0x34, 0x12],
    [0b11011101, 0b00100010, 0x01, 0x80], [0b11111101, 0b00100010, 0x34, 0x12], [0b11111001],
    [0b11011101, 0b11111001], [0b11111101, 0b11111001], [0b11100101], [0b11011101, 0b11100101],
    [0b11111101, 0b11100101], [0b11110001], [0b11011101, 0b11100001], [0b11111101, 0b11100001], [0b11101011],
    [0b00001000], [0b11011001], [0b11100011]].map instrOf =
    ([
    .ldDdNn .sp 0x1234, .ldIxNn 0x8001, .ldIyNn 0x1234, .ldHlMem 0x1234, .ldDdMem .bc 0x8001, .ldIxMem 0x8001,
    .ldIyMem 0xFFFE, .ldMemHl 0x1234, .ldMemDd 0x1234 .bc, .ldMemIx 0x8001, .ldMemIy 0x1234, .ldSpHl, .ldSpIx,
    .ldSpIy, .pushQq .hl, .pushIx, .pushIy, .popQq .af, .popIx, .popIy, .exDeHl, .exAfAf, .exx, .exSpHl] : List Instr).map some := by decide +kernel

theorem test_decode_load16_b :
    [
    [0b11011101, 0b11100011], [0b11111101, 0b11100011]].map instrOf =
    ([
    .exSpIx, .exSpIy] : List Instr).map some := by decide +kernel

theorem test_decode_arith8_a :
    [
    [0b10000001], [0b11000110, 0xA5], [0b10000110], [0b11011101, 0b10000110, 0xFE], [0b11111101, 0b10000110, 0xA5],
    [0b10001010], [0b11001110, 0xA5], [0b10001110], [0b11011101, 0b10001110, 0x05], [0b11111101, 0b10001110, 0xFE],
    [0b10010100], [0b11010110, 0xA5], [0b10010110], [0b11011101, 0b10010110, 0x05], [0b11111101, 0b10010110, 0x80],
    [0b10011000], [0b11011110, 0xA5], [0b10011110], [0b11011101, 0b10011110, 0xFE], [0b11111101, 0b10011110, 0xA5],
    [0b10100000], [0b11100110, 0xA5], [0b10100110], [0b11011101, 0b10100110, 0x05]].map instrOf =
    ([
    .addAR .c, .addAN 0xA5, .addAHl, .addAIx 0xFE, .addAIy 0xA5, .adcAR .d, .adcAN 0xA5, .adcAHl, .adcAIx 0x05,
    .adcAIy 0xFE, .subR .h, .subN 0xA5, .subHl, .subIx 0x05, .subIy 0x80, .sbcAR .b, .sbcAN 0xA5, .sbcAHl,
    .sbcAIx 0xFE, .sbcAIy 0xA5, .andR .b, .andN 0xA5, .andHl, .andIx 0x05] : List Instr).map some := by decide +kernel

theorem test_decode_arith8_b :
    [
    [0b11111101, 0b10100110, 0x7F], [0b10101101], [0b11101110, 0xA5], [0b10101110], [0b11011101, 0b10101110, 0x7F],
    [0b11111101, 0b10101110, 0x80], [0b10110011], [0b11110110, 0xA5], [0b10110110], [0b11011101, 0b10110110, 0x7F],
    [0b11111101, 0b10110110, 0x80], [0b10111010], [0b11111110, 0x05], [0b10111110], [0b11011101, 0b10111110, 0x05],
    [0b11111101, 0b10111110, 0x05], [0b00000100], [0b00110100], [0b11011101, 0b00110100, 0xA5],
    [0b11111101, 0b00110100, 0x80], [0b00100101], [0b00110101], [0b11011101, 0b00110101, 0x7F],
    [0b11111101, 0b00110101, 0x80]].map instrOf =
    ([
    .andIy 0x7F, .xorR .l, .xorN 0xA5, .xorHl, .xorIx 0x7F, .xorIy 0x80, .orR .e, .orN 0xA5, .orHl, .orIx 0x7F,
    .orIy 0x80, .cpR .d, .cpN 0x05, .cpHl, .cpIx 0x05, .cpIy 0x05, .incR .b, .incMemHl, .incMemIx 0xA5,
    .incMemIy 0x80, .decR .h, .decMemHl, .decMemIx 0x7F, .decMemIy 0x80] : List Instr).map some := by decide +kernel

theorem test_decode_arith8_c :
    [
    [0b00101111], [0b11101101, 0b01000100], [0b00111111], [0b00110111]].map instrOf =
    ([
    .cpl, .neg, .ccf, .scf] : List Instr).map some := by decide +kernel

theorem test_decode_arith16 :
    [
    [0b00111001], [0b11101101, 0b01101010], [0b11101101, 0b01000010], [0b11011101, 0b00001001],
    [0b11111101, 0b00111001], [0b00010011], [0b00101011], [0b11011101, 0b00100011], [0b11011101, 0b00101011],
    [0b11111101, 0b00100011], [0b11111101, 0b00101011]].map instrOf =
    ([
    .addHlSs .sp, .adcHlSs .hl, .sbcHlSs .bc, .addIxPp .bc, .addIyRr .sp, .incSs .de, .decSs .hl, .incIx, .decIx,
    .incIy, .decIy] : List Instr).map some := by decide +kernel

theorem test_decode_rotate_a :
    [
    [0b00000111], [0b00001111], [0b00010111], [0b00011111], [0b11001011, 0b00000001], [0b11001011, 0b00000110],
    [0b11011101, 0b11001011, 0x7F, 0b00000110], [0b11111101, 0b11001011, 0x7F, 0b00000110],
    [0b11001011, 0b00001000], [0b11001011, 0b00001110], [0b11011101, 0b11001011, 0xFE, 0b00001110],
    [0b11111101, 0b11001011, 0xA5, 0b00001110], [0b11001011, 0b00010100], [0b11001011, 0b00010110],
    [0b11011101, 0b11001011, 0x80, 0b00010110], [0b11111101, 0b11001011, 0x80, 0b00010110],
    [0b11001011, 0b00011101], [0b11001011, 0b00011110], [0b11011101, 0b11001011, 0x80, 0b00011110],
    [0b11111101, 0b11001011, 0xA5, 0b00011110], [0b11001011, 0b00100011], [0b11001011, 0b00100110],
    [0b11011101, 0b11001011, 0xA5, 0b00100110], [0b11111101, 0b11001011, 0x7F, 0b00100110]].map instrOf =
    ([
    .rlca, .rrca, .rla, .rra, .rlcR .c, .rlcHl, .rlcIx 0x7F, .rlcIy 0x7F, .rrcR .b, .rrcHl, .rrcIx 0xFE,
    .rrcIy 0xA5, .rlR .h, .rlHl, .rlIx 0x80, .rlIy 0x80, .rrR .l, .rrHl, .rrIx 0x80, .rrIy 0xA5, .slaR .e, .slaHl,
    .slaIx 0xA5, .slaIy 0x7F] : List Instr).map some := by decide +kernel

theorem test_decode_rotate_b :
    [
    [0b11001011, 0b00101000], [0b11001011, 0b00101110], [0b11011101, 0b11001011, 0xFE, 0b00101110],
    [0b11111101, 0b11001011, 0x80, 0b00101110], [0b11001011, 0b00111011], [0b11001011, 0b00111110],
    [0b11011101, 0b11001011, 0xFE, 0b00111110], [0b11111101, 0b11001011, 0xFE, 0b00111110]].map instrOf =
    ([
    .sraR .b, .sraHl, .sraIx 0xFE, .sraIy 0x80, .srlR .e, .srlHl, .srlIx 0xFE, .srlIy 0xFE] : List Instr).map some := by decide +kernel

theorem test_decode_control :
    [
    [0b11000011, 0x01, 0x80], [0b11100010, 0x01, 0x80], [0b00011000, 0xA5], [0b00111000, 0x80], [0b11101001],
    [0b11011101, 0b11101001], [0b11111101, 0b11101001], [0b00010000, 0x7F], [0b11001101, 0x01, 0x80],
    [0b11101100, 0x34, 0x12], [0b11001001], [0b11111000], [0b11101101, 0b01001101], [0b11101101, 0b01000101],
    [0b11101111], [0b00000000], [0b11110011], [0b11111011]].map instrOf =
    ([
    .jpNn 0x8001, .jpCc .po 0x8001, .jr 0xA5, .jrCc .c 0x80, .jpHl, .jpIx, .jpIy, .djnz 0x7F, .callNn 0x8001,
    .callCc .pe 0x1234, .ret, .retCc .m, .reti, .retn, .rst 0x28, .nop, .di, .ei] : List Instr).map some := by decide +kernel

/-! ## Illegal byte strings (R94, and the source's example in R93) -/

theorem test_illegal_first_bytes :
    [[0x27], [0x76], [0xD3], [0xDB]].map illegalBytes = [some [0x27], some [0x76], some [0xD3], some [0xDB]] := by
  decide +kernel

theorem test_illegal_second_bytes :
    [[0xCB, 0x30], [0xCB, 0x37], [0xCB, 0x40], [0xED, 0x46], [0xED, 0xB0], [0xDD, 0x76], [0xFD, 0xDD]].map illegalBytes =
    [some [0xCB, 0x30], some [0xCB, 0x37], some [0xCB, 0x40], some [0xED, 0x46], some [0xED, 0xB0], some [0xDD, 0x76],
      some [0xFD, 0xDD]] := by decide +kernel

theorem test_legal_at_the_edges_of_the_CB_page :
    [[0xCB, 0x2F], [0xCB, 0x38], [0xCB, 0x3F]].map instrOf = [some (.sraR .a), some (.srlR .b), some (.srlR .a)] := by
  decide +kernel

theorem test_illegal_fourth_byte : illegalBytes [0xDD, 0xCB, 0x05, 0x36] = some [0xDD, 0xCB, 0x05, 0x36] := by
  decide +kernel

theorem test_truncated : decode [0xDD, 0x21, 0x34] = .error .truncated := by decide +kernel

theorem test_rest_is_kept : decode [0x78, 0xAA] = .ok (.ldRR .a .b, [0xAA]) := by rfl

/-- R93: dispatching 0x76 is IllegalOpcode at PC, not an advance of the program counter. -/
theorem test_halt_is_illegal :
    faultOf (step (testState 0x1234 [0x76] [])) = some (.illegalOpcode 0x1234 [0x76]) := by
  decide +kernel

/-! ## The mechanism, on small catalogs (R80, R403, and the source's examples S5 and S6) -/

theorem test_one_rule :
    (field 0x40 0x3F none).matchesByte 0x41 = true ∧ (field 0x40 0x3F none).extract 0x41 = 0x01 ∧
    (field 0x40 0x3F none).matchesByte 0x80 = false := by decide

/-- The two rules of S6. -/
def loadRules : List ByteRule := [fixed 0xDD, field 0x45 0x38 (some .hi3Ne6)]

theorem test_two_rules_match_and_extract :
    rulesMatch loadRules [0xDD, 0x7D, 0xAA] = true ∧ extractAll loadRules [0xDD, 0x7D, 0xAA] = [0x00, 0x38] ∧
    rulesMatch loadRules [0xDD, 0x75, 0xAA] = false ∧
    extractAll (loadRules ++ [anyByte]) [0xDD, 0x7D, 0xAA] = [0x00, 0x38, 0xAA] := by decide

/-- A routine of no baseline instruction, for S6's load: the selected register takes the low byte of IX (R153), and the
signal says whether that byte is zero. -/
def loadRoutine (x : List Byte) : Option Routine :=
  (R8.ofSel (xField3 x 1 3)).map fun dst s => .ok (s.writeR8 dst (loByte s.ix), loByte s.ix == 0)

/-- A, PC, the cycle count and the number of bytes fetched after a run with the catalog of S6. -/
def runsOne (rules : List ByteRule) (bytes : List Byte) (ix : Nat) : Option (Byte × Word × Nat × Nat) :=
  match dispatchWith [row "S6" rules [4, 4] (some [4, 9]) loadRoutine] (testState 0x0000 bytes [.writeCell .ix ix]) with
  | .next r => some (r.state.a, r.state.pc, r.cycles, r.fetched)
  | _ => none

theorem test_a_third_rule_fetches_a_third_byte :
    runsOne loadRules [0xDD, 0x7D, 0xAA] 0x1234 = some (0x34, 0x0002, 8, 2) ∧
    runsOne (loadRules ++ [anyByte]) [0xDD, 0x7D, 0xAA] 0x1234 = some (0x34, 0x0003, 8, 3) ∧
    runsOne loadRules [0xDD, 0x75, 0xAA] 0x1234 = none := by decide +kernel

/-- The routine's own signal chooses the cost table (R83). -/
theorem test_a_routine_signals : runsOne loadRules [0xDD, 0x7D] 0x1200 = some (0x00, 0x0002, 13, 2) := by decide +kernel

/-- A predicate of no baseline rule (R70): the low bit of the variable bits is set. -/
theorem test_any_predicate :
    [0x40, 0x41, 0x81].map (field 0x40 0x3F (some fun v => v.getLsbD 0)).matchesByte = [false, true, false] := by decide

/-- The general rule of R403 before the specific one: the general one wins. -/
def generalFirst : Catalog Instr :=
  [row "general" [field 0x40 0x3F none] [4] none fun _ => some .nop, row "specific" [fixed 0x76] [4] none fun _ => some .di]

theorem test_first_registered_wins :
    (selectDescriptor generalFirst [0x76]).map (·.mnemonic) = some "general" := by decide
theorem test_order_matters :
    (selectDescriptor generalFirst.reverse [0x76]).map (·.mnemonic) = some "specific" := by decide
theorem test_partial_match_fetches_one_more : fetchCount baseline [0xED, 0x00, 0x00, 0x00] = 2 := by decide +kernel
theorem test_malformed_is_reported :
    buildCatalog [row "bad" [fixed 0x00, anyByte] [4] none fun _ => some Instr.nop] = .error (.malformedDescriptor "bad") := by
  rfl

/-! ## The table's numbering (log entry 6) and the placing of a word -/

theorem test_table_word : decodeTableWord 16 0xED57 = some .ldAI := by decide +kernel
theorem test_table_word_with_zero_operands : decodeTableWord 8 0x21 = some (.ldDdNn .hl 0x0000) := by decide +kernel
theorem test_placed_word_runs :
    (nextOf (step (State.reset.withFetchWord 24 0x3A3412))).map (·.pc) = some 0x0003 := by decide +kernel

/-! ## One step: the examples of the instruction rules -/

/-- R156, R159, R161, R171, R174. -/
theorem test_step_load8 :
    leads 0x0000 [0x7E] [.writeCell .h 0x80, .writeCell .l 0x00, .writeByte 0x8000 0x5A]
      [(.a, 0x5A), (.h, 0x80), (.l, 0x00), (.pc, 0x0001)] [] 7 = true ∧
    leads 0x0000 [0xDD, 0x7E, 0xFF] [.writeCell .ix 0x9000, .writeByte 0x8FFF 0x33]
      [(.a, 0x33), (.ix, 0x9000), (.pc, 0x0003)] [] 19 = true ∧
    leads 0x0000 [0xDD, 0x71, 0x05] [.writeCell .ix 0x9000, .writeCell .c 0x44]
      [(.pc, 0x0003)] [(0x9005, 0x44)] 19 = true ∧
    leads 0x0000 [0xED, 0x57] [.writeCell .i 0x80, .writeCell .iff2 1, .writeCell .f 0x01]
      [(.a, 0x80), (.f, 0x85), (.pc, 0x0002)] [] 9 = true ∧
    leads 0x0000 [0xED, 0x4F] [.writeCell .a 0x3C]
      [(.r, 0x3C), (.pc, 0x0002)] [] 9 = true := by decide +kernel

/-- R188, R192, R198, R201, R205, R206, R207. -/
theorem test_step_load16 :
    leads 0x0000 [0xED, 0x7B, 0x00, 0x50] [.writeByte 0x5000 0xFE, .writeByte 0x5001 0xFF]
      [(.sp, 0xFFFE), (.pc, 0x0004)] [] 20 = true ∧
    leads 0x0000 [0xED, 0x53, 0x00, 0x60] [.writeCell .d 0x12, .writeCell .e 0x34]
      [(.pc, 0x0004)] [(0x6000, 0x34), (0x6001, 0x12)] 20 = true ∧
    leads 0x0000 [0xC5] [.writeCell .sp 0x8000, .writeCell .b 0x12, .writeCell .c 0x34]
      [(.sp, 0x7FFE), (.pc, 0x0001)] [(0x7FFF, 0x12), (0x7FFE, 0x34)] 11 = true ∧
    leads 0x0000 [0xF1] [.writeCell .sp 0x7FFE, .writeByte 0x7FFE 0xD7, .writeByte 0x7FFF 0x12]
      [(.a, 0x12), (.f, 0xD7), (.sp, 0x8000), (.pc, 0x0001)] [] 10 = true ∧
    leads 0x0000 [0x08] [.writeCell .a 0x12, .writeCell .f 0x01, .writeCell .af' 0x34D7]
      [(.a, 0x34), (.f, 0xD7), (.af', 0x1201), (.pc, 0x0001)] [] 4 = true ∧
    leads 0x0000 [0xD9] [.writeCell .b 0x00, .writeCell .c 0x01, .writeCell .bc' 0x1000, .writeCell .h 0x00,
        .writeCell .l 0x03, .writeCell .hl' 0x3000]
      [(.b, 0x10), (.c, 0x00), (.bc', 0x0001), (.h, 0x30), (.l, 0x00), (.hl', 0x0003), (.pc, 0x0001)] [] 4 = true ∧
    leads 0x0000 [0xE3] [.writeCell .sp 0x7000, .writeCell .h 0xAA, .writeCell .l 0xBB,
        .writeByte 0x7000 0x22, .writeByte 0x7001 0x11]
      [(.h, 0x11), (.l, 0x22), (.sp, 0x7000), (.pc, 0x0001)] [(0x7000, 0xBB), (0x7001, 0xAA)] 19 = true := by decide +kernel

/-- R226, R231, R236, R241, R247, R250, R254, R259. -/
theorem test_step_arith8_a :
    leads 0x0000 [0x86] [.writeCell .a 0x0F, .writeCell .f 0x00, .writeCell .h 0x80, .writeCell .l 0x00,
        .writeByte 0x8000 0x01]
      [(.a, 0x10), (.f, 0x10), (.pc, 0x0001)] [] 7 = true ∧
    leads 0x0000 [0x8E] [.writeCell .a 0x7F, .writeCell .f 0x01, .writeCell .h 0x80, .writeCell .l 0x00,
        .writeByte 0x8000 0x00]
      [(.a, 0x80), (.f, 0x94), (.pc, 0x0001)] [] 7 = true ∧
    leads 0x0000 [0x96] [.writeCell .a 0x10, .writeCell .f 0x00, .writeCell .h 0x80, .writeCell .l 0x00,
        .writeByte 0x8000 0x01]
      [(.a, 0x0F), (.f, 0x12), (.pc, 0x0001)] [] 7 = true ∧
    leads 0x0000 [0x9E] [.writeCell .a 0x00, .writeCell .f 0x01, .writeCell .h 0x80, .writeCell .l 0x00,
        .writeByte 0x8000 0x00]
      [(.a, 0xFF), (.f, 0x93), (.pc, 0x0001)] [] 7 = true ∧
    leads 0x0000 [0xDD, 0xA6, 0xFF] [.writeCell .a 0xF0, .writeCell .f 0x00, .writeCell .ix 0x8010,
        .writeByte 0x800F 0x3C]
      [(.a, 0x30), (.f, 0x14), (.pc, 0x0003)] [] 19 = true ∧
    leads 0x0000 [0xEE, 0x0F] [.writeCell .a 0xFF, .writeCell .f 0x00]
      [(.a, 0xF0), (.f, 0x84), (.pc, 0x0002)] [] 7 = true ∧
    leads 0x0000 [0xB0] [.writeCell .a 0x80, .writeCell .b 0x01, .writeCell .f 0x00]
      [(.a, 0x81), (.f, 0x84), (.pc, 0x0001)] [] 4 = true ∧
    leads 0x0000 [0xB8] [.writeCell .a 0x40, .writeCell .b 0x40, .writeCell .f 0x00]
      [(.a, 0x40), (.f, 0x42), (.pc, 0x0001)] [] 4 = true := by decide +kernel

/-- R264, R269, R272, R273, R274, R275. -/
theorem test_step_arith8_b :
    leads 0x0000 [0x04] [.writeCell .b 0x7F, .writeCell .f 0x01]
      [(.b, 0x80), (.f, 0x95), (.pc, 0x0001)] [] 4 = true ∧
    leads 0x0000 [0x35] [.writeCell .h 0x80, .writeCell .l 0x00, .writeByte 0x8000 0x80, .writeCell .f 0x01]
      [(.f, 0x17), (.pc, 0x0001)] [(0x8000, 0x7F)] 11 = true ∧
    leads 0x0000 [0x2F] [.writeCell .a 0xB4]
      [(.a, 0x4B), (.f, 0x12), (.pc, 0x0001)] [] 4 = true ∧
    leads 0x0000 [0xED, 0x44] [.writeCell .a 0x01]
      [(.a, 0xFF), (.f, 0x93), (.pc, 0x0002)] [] 8 = true ∧
    leads 0x0000 [0x3F] [.writeCell .f 0x01]
      [(.f, 0x10), (.pc, 0x0001)] [] 4 = true ∧
    leads 0x0000 [0x37] [.writeCell .f 0xD6]
      [(.f, 0xC5), (.pc, 0x0001)] [] 4 = true := by decide +kernel

/-- R291, R292, R293, R294, R297. -/
theorem test_step_arith16 :
    leads 0x0000 [0x09] [.writeCell .h 0x0F, .writeCell .l 0xFF, .writeCell .b 0x00, .writeCell .c 0x01,
        .writeCell .f 0xC4]
      [(.h, 0x10), (.l, 0x00), (.f, 0xD4), (.pc, 0x0001)] [] 11 = true ∧
    leads 0x0000 [0xED, 0x4A] [.writeCell .h 0x7F, .writeCell .l 0xFF, .writeCell .b 0x00, .writeCell .c 0x00,
        .writeCell .f 0x01]
      [(.h, 0x80), (.l, 0x00), (.f, 0x94), (.pc, 0x0002)] [] 15 = true ∧
    leads 0x0000 [0xED, 0x52] [.writeCell .h 0x80, .writeCell .l 0x00, .writeCell .d 0x00, .writeCell .e 0x01,
        .writeCell .f 0x00]
      [(.h, 0x7F), (.l, 0xFF), (.f, 0x16), (.pc, 0x0002)] [] 15 = true ∧
    leads 0x0000 [0xDD, 0x19] [.writeCell .ix 0xF000, .writeCell .d 0x10, .writeCell .e 0x00]
      [(.ix, 0x0000), (.f, 0x01), (.pc, 0x0002)] [] 15 = true ∧
    leads 0x0000 [0x1B] [.writeCell .d 0x00, .writeCell .e 0x00, .writeCell .f 0x00]
      [(.d, 0xFF), (.e, 0xFF), (.f, 0x00), (.pc, 0x0001)] [] 6 = true := by decide +kernel

/-- R312, R315, R319, R322, R325, R328, R332, R336. -/
theorem test_step_rotate_a :
    leads 0x0000 [0x07] [.writeCell .a 0x81, .writeCell .f 0xC4]
      [(.a, 0x03), (.f, 0xC5), (.pc, 0x0001)] [] 4 = true ∧
    leads 0x0000 [0x1F] [.writeCell .a 0x81, .writeCell .f 0xC5]
      [(.a, 0xC0), (.f, 0xC5), (.pc, 0x0001)] [] 4 = true ∧
    leads 0x0000 [0xFD, 0xCB, 0x03, 0x06] [.writeCell .iy 0x8000, .writeByte 0x8003 0x81, .writeCell .f 0x00]
      [(.f, 0x05), (.pc, 0x0004)] [(0x8003, 0x03)] 23 = true ∧
    leads 0x0000 [0xDD, 0xCB, 0x03, 0x0E] [.writeCell .ix 0x8000, .writeByte 0x8003 0x81, .writeCell .f 0x00]
      [(.f, 0x85), (.pc, 0x0004)] [(0x8003, 0xC0)] 23 = true ∧
    leads 0x0000 [0xCB, 0x16] [.writeCell .h 0x80, .writeCell .l 0x00, .writeByte 0x8000 0x81, .writeCell .f 0x01]
      [(.f, 0x05), (.pc, 0x0002)] [(0x8000, 0x03)] 15 = true ∧
    leads 0x0000 [0xCB, 0x18] [.writeCell .b 0x81, .writeCell .f 0x01]
      [(.b, 0xC0), (.f, 0x85), (.pc, 0x0002)] [] 8 = true ∧
    leads 0x0000 [0xCB, 0x20] [.writeCell .b 0x81, .writeCell .f 0x00]
      [(.b, 0x02), (.f, 0x01), (.pc, 0x0002)] [] 8 = true ∧
    leads 0x0000 [0xCB, 0x28] [.writeCell .b 0x81, .writeCell .f 0x00]
      [(.b, 0xC0), (.f, 0x85), (.pc, 0x0002)] [] 8 = true := by decide +kernel

/-- R340. -/
theorem test_step_rotate_b :
    leads 0x0000 [0xCB, 0x38] [.writeCell .b 0x81, .writeCell .f 0x00]
      [(.b, 0x40), (.f, 0x01), (.pc, 0x0002)] [] 8 = true := by decide +kernel

/-- R356, R360, R362, R364, R366, R367, R369, R370. -/
theorem test_step_control :
    leads 0x0000 [0x20, 0xFC] [.writeCell .f 0x00]
      [(.pc, 0xFFFE)] [] 12 = true ∧
    leads 0x0000 [0x10, 0xFE] [.writeCell .b 0x02]
      [(.b, 0x01), (.pc, 0x0000)] [] 13 = true ∧
    leads 0x0000 [0xDC, 0x00, 0x20] [.writeCell .sp 0x8000, .writeCell .f 0x01]
      [(.pc, 0x2000), (.sp, 0x7FFE)] [(0x7FFF, 0x00), (0x7FFE, 0x03)] 17 = true ∧
    leads 0x0000 [0xC0] [.writeCell .sp 0x7FFE, .writeByte 0x7FFE 0x03, .writeByte 0x7FFF 0x01,
        .writeCell .f 0x40]
      [(.pc, 0x0001), (.sp, 0x7FFE)] [] 5 = true ∧
    leads 0x0000 [0xED, 0x45] [.writeCell .sp 0x7FFE, .writeByte 0x7FFE 0x03, .writeByte 0x7FFF 0x01,
        .writeCell .iff2 1]
      [(.pc, 0x0103), (.sp, 0x8000), (.iff1, 1), (.iff2, 1)] [] 14 = true ∧
    leads 0x1234 [0xEF] [.writeCell .sp 0x8000]
      [(.pc, 0x0028), (.sp, 0x7FFE)] [(0x7FFF, 0x12), (0x7FFE, 0x35)] 11 = true ∧
    leads 0x0000 [0xF3] [.writeCell .iff1 1, .writeCell .iff2 1]
      [(.iff1, 0), (.iff2, 0), (.pc, 0x0001)] [] 4 = true ∧
    leads 0x0000 [0xFB] []
      [(.iff1, 1), (.iff2, 1), (.pc, 0x0001)] [] 4 = true := by decide +kernel

/-! ## States and operands that meet the hypotheses of each statement -/

theorem test_witness_DecodeOfEncode : (Instr.rst 0x28).wf = true ∧ (Instr.jrCc .c 0xFE).wf = true := by decide

theorem test_witness_EncodeOfDecode : decode [0xDD, 0x7E, 0xFE, 0x00] = .ok (.ldRIx .a 0xFE, [0x00]) := by rfl

theorem test_witness_RangePairBoundsMatches :
    (field 0x06 0x38 (some .hi3Ne6)).matchesByte 0x3E = true ∧ anyByte.wf = true ∧ anyByte.pred = none ∧
    (field 0x06 0x38 none).matchesByte 0x06 = true ∧ (0x07 : Byte) &&& ~~~0x38 ≠ (field 0x06 0x38 none).const :=
  ⟨by decide, by decide, rfl, by decide, by decide⟩

theorem test_witness_IllFormedRuleMatchesNothing :
    (field 0x08 0x38 none).wf = false ∧ (field 0x40 0x3F none).wf = true ∧ (field 0x40 0x3F none).pred = none ∧
    (field 0x40 0x3F none).matchesByte 0x41 = true ∧ (∀ b, (field 0x40 0x3F (some fun _ => false)).matchesByte b = false) :=
  ⟨by decide, by decide, rfl, by decide, by decide +kernel⟩

theorem test_witness_MalformedDescriptorChecks :
    (row "no rules" [] [] none fun _ => (none : Option Instr)).wf = false ∧
    (row "short cost" [fixed 0x00, anyByte] [4] none fun _ => (none : Option Instr)).wf = false ∧
    (row "short alternate" [fixed 0x00] [4] (some []) fun _ => (none : Option Instr)).wf = false ∧
    (row "bad rule" [field 0x08 0x38 none] [4] none fun _ => (none : Option Instr)).wf = false ∧
    (row "no cost" [fixed 0x00] [0] none fun _ => (none : Option Instr)).wf = false ∧
    (row "good" [fixed 0x00] [1] (some [1]) fun _ => (none : Option Instr)).wf = true := by decide

theorem test_witness_BaselineDisjointAndStartFree :
    (baseline[3]?.map fun d => (d.length, d.matches [0x70])) = some (1, true) ∧ baseline.reverse.Perm baseline ∧
    (selectDescriptor baseline [0xDD, 0x36, 0x05, 0x07]).map (·.length) = some 4 :=
  ⟨by decide +kernel, List.reverse_perm _, by decide +kernel⟩

theorem test_witness_IllegalOpcodeCarriesFetchedBytes :
    (selectDescriptor baselineCatalog ((testState 0xFFFF [0xED, 0x00] []).window baselineCatalog)).isNone = true ∧
    (baselineCatalog.all fun d => !d.rules.isEmpty) = true := by decide +kernel

theorem test_witness_FirstMatchInOrderIsSelected :
    (selectDescriptor baselineCatalog ((testState 0xFFFF [0xED, 0x57] []).window baselineCatalog)).map (·.mnemonic) =
      some "LD A,I" ∧
    ((loadRoutine [0x00, 0x38]).map fun f => (f State.reset).toOption.map (·.2)) = some (some true) := by decide +kernel

/-- Each branch of the illegal space, and a legal string beside it. -/
theorem test_witness_IllegalSpaceIsComplete :
    [[0x27], [0xCB, 0x30], [0xED, 0x41], [0xDD, 0x08], [0xFD, 0x08], [0xDD, 0xCB, 0x00, 0x00], [0xFD, 0xCB, 0x00, 0x36]].map
      illegalBytes =
    [some [0x27], some [0xCB, 0x30], some [0xED, 0x41], some [0xDD, 0x08], some [0xFD, 0x08],
      some [0xDD, 0xCB, 0x00, 0x00], some [0xFD, 0xCB, 0x00, 0x36]] := by decide +kernel

theorem test_witness_StepRunsDecodedInstruction :
    (decode ((testState 0xFFFE [0xC3, 0x34, 0x12] []).bytesFrom 4 0xFFFE)).toOption.map (·.1) = some (.jpNn 0x1234) := by
  decide +kernel

/-- The bytes of a four-byte instruction that wraps past the top of memory lie where the statement asks. -/
theorem test_witness_StepRunsInstructionInMemory :
    (encode (.ldIxN 0x05 0x07)).zipIdx.all (fun x =>
      (testState 0xFFFE (encode (.ldIxN 0x05 0x07)) []).memRead8 (0xFFFE + BitVec.ofNat 16 x.2) == x.1) = true := by
  decide +kernel

/-- Taken and not taken, for each conditional transfer. -/
theorem test_witness_ConditionalCycleCounts :
    leads 0x0000 [0xCA, 0x00, 0x80] [.writeCell .f 0x40] [(.pc, 0x8000)] [] 10 = true ∧
    leads 0x0000 [0x20, 0x05] [.writeCell .f 0x40] [(.pc, 0x0002)] [] 7 = true ∧
    leads 0x0000 [0xC4, 0x00, 0x20] [.writeCell .f 0x40] [(.pc, 0x0003)] [] 10 = true ∧
    leads 0x0000 [0xC8] [.writeCell .f 0x40, .writeCell .sp 0x8000] [(.pc, 0x0000), (.sp, 0x8002)] [] 11 = true ∧
    leads 0x0000 [0x10, 0x05] [.writeCell .b 0x01] [(.b, 0x00), (.pc, 0x0002)] [] 8 = true := by decide +kernel

theorem test_witness_StepKeepsMemoryCanonical : ∃ s t : State, s.Inv ∧ step s = .next t :=
  have ⟨t, ht⟩ := eq_next_of_nextOf (x := step (testState 0x0000 [0x77] [.writeCell .a 0x05])) (by decide +kernel)
  ⟨_, t, (by decide +kernel : Memory.wf (testState 0x0000 [0x77] [.writeCell .a 0x05]).mem = true), ht⟩

theorem test_witness_CanonicalMemoryIsDetermined :
    Memory.wf [(0, 1), (65535, 255)] = true ∧ Memory.wf [(65536, 1)] = false ∧ Memory.wf [(0, 0)] = false ∧
    Memory.wf [(1, 1), (1, 2)] = false := by decide

theorem test_witness_StackDiscipline : (testState 0x0000 [] []).sp = 0x0000 := by decide

theorem test_witness_CallerWritesAnyCell : 255 < Cell.f.size ∧ 65535 < Cell.pc.size ∧ 1 < Cell.iff1.size := by decide

/-- A policy that acts once and then stops. -/
def actOnce : HostPolicy := fun reports _ => if reports.isEmpty then some [.writeCell .b 0x7F] else none

theorem test_witness_IdleCallerIteratesStep :
    actOnce [] State.reset = some [.writeCell .b 0x7F] ∧
    (nextOf (runWithCaller baselineCatalog actOnce 9 [] State.reset)).map (fun t => (t.b, t.pc)) = some (0x7F, 0x0001) ∧
    faultOf (runWithCaller baselineCatalog .idle 2 [] (testState 0xFFFF [0x00, 0x76] [])) =
      some (.illegalOpcode 0x0000 [0x76]) := by decide +kernel

theorem test_witness_SpareFlagBitsChangeOnlyByTransfer :
    ∃ t, exec (.popQq .bc) State.reset = .next t ∧ (Instr.popQq .bc) ≠ .popQq .af ∧ (Instr.popQq .bc) ≠ .exAfAf :=
  ⟨_, rfl, by decide, by decide⟩

theorem test_witness_ShadowSetReachedOnlyByExchange :
    ∃ t, exec .ldABc State.reset = .next t ∧ Instr.ldABc ≠ .exAfAf ∧ Instr.ldABc ≠ .exx :=
  ⟨_, rfl, by decide, by decide⟩

theorem test_witness_StepWritersOfSystemCells :
    ∃ s t rest, decode (s.bytesFrom 4 s.pc) = .ok (.ldIA, rest) ∧ step s = .next t :=
  have ⟨t, ht⟩ := eq_next_of_nextOf (x := step (testState 0x0000 [0xED, 0x47] [.writeCell .a 0x80])) (by decide +kernel)
  ⟨testState 0x0000 [0xED, 0x47] [.writeCell .a 0x80], t, [0x00, 0x00], by rfl, ht⟩

/-- Two states that read alike and are different data: one lists an entry the canonical form leaves out. -/
theorem test_witness_StepDependsOnlyOnWhatReads :
    let s := State.launch Config.initRegs []
    let u := State.launch Config.initRegs [(5, 0x00)]
    u ≠ s ∧ (∀ x, u.cell x = s.cell x) ∧ ∀ x, u.memRead8 x = s.memRead8 x := by
  refine ⟨by decide, fun x => by cases x <;> rfl, fun x => ?_⟩
  by_cases h : 5 = x.toNat <;> simp [State.memRead8, State.launch, Memory.get, Memory.lookup, h, Config.unlistedByte]

end Sys2Proof.Machine
end

section
/-! Proofs about the state (spec/10_state.md): what a write of the caller to a cell does (R34), and that the instructions
other than EX AF,AF' and EXX neither read nor write the shadow set (R25). -/

namespace Sys2Proof.Machine

/-! ## The caller's access to a cell (R34) -/

theorem cell_lt_size (s : State) : ∀ x : Cell, s.cell x < x.size
  | .a | .f | .b | .c | .d | .e | .h | .l | .i | .r => BitVec.isLt _
  | .af' | .bc' | .de' | .hl' | .ix | .iy | .sp | .pc => BitVec.isLt _
  | .iff1 | .iff2 => Bool.toNat_lt _

theorem toNat_bit_of_lt {v : Nat} (h : v < 2) : (v % 2 == 1).toNat = v := by
  obtain rfl | rfl : v = 0 ∨ v = 1 := by omega
  · rfl
  · rfl

/-- A value of the cell's width reads back: the byte views by the laws of the views, the others as stored. -/
theorem cell_setCell {x : Cell} {v : Nat} (s : State) (h : v < x.size) : (s.setCell x v).cell x = v := by
  cases x with
  | a | f | b | c | d | e | h | l | i | r => simpa [State.setCell, State.cell, Cell.size] using h
  | af' | bc' | de' | hl' | ix | iy | sp | pc => exact Nat.mod_eq_of_lt h
  | iff1 | iff2 => exact toNat_bit_of_lt h

/-- A write to a cell changes no other cell: a byte view leaves the other half of its pair. -/
theorem unchanged_setCell (x : Cell) (v : Nat) (s : State) : UnchangedExcept [x] s (s.setCell x v) := by
  cases x with
  | a => exact unchanged_setA _ s
  | f => exact unchanged_setF _ s
  | b => exact unchanged_writeR8 .b _ s
  | c => exact unchanged_writeR8 .c _ s
  | d => exact unchanged_writeR8 .d _ s
  | e => exact unchanged_writeR8 .e _ s
  | h => exact unchanged_writeR8 .h _ s
  | l => exact unchanged_writeR8 .l _ s
  | i => exact (kept_setI (m := false) _ s).cells
  | r => exact (kept_setR (m := false) _ s).cells
  | pc => exact unchanged_setPc _ s
  | af' | bc' | de' | hl' | ix | iy | sp | iff1 | iff2 =>
    intro y hy
    cases y <;> simp at hy <;> rfl

@[simp] theorem setCell_mem (x : Cell) (v : Nat) (s : State) : (s.setCell x v).mem = s.mem := by cases x <;> rfl

/-- Settles O24: the four laws of a write to a cell. -/
theorem callerWritesAnyCell : Obligations.CallerWritesAnyCell := fun s x v h =>
  ⟨cell_setCell s h, unchanged_setCell x v s, setCell_mem x v s, cell_lt_size s x⟩

/-! ## The shadow set (R25) -/

/-- The state with its four shadow cells replaced. -/
def State.withShadows (waf wbc wde whl : Word) (s : State) : State :=
  { s with af' := waf, bc' := wbc, de' := wde, hl' := whl }

section

variable {waf wbc wde whl : Word}

/-- Replacing the shadow set goes into the branches of a conditional update. -/
theorem withShadows_ite (p : Prop) [Decidable p] (s t : State) :
    (if p then s else t).withShadows waf wbc wde whl =
      if p then s.withShadows waf wbc wde whl else t.withShadows waf wbc wde whl := apply_ite ..

/-- The state `u` that an instruction's meaning writes out may stand for the state `t` it was said to answer. -/
theorem next_withShadows {r : Result} {t u : State} (h : (.next u : Result) = .next t)
    (hr : r = .next (u.withShadows waf wbc wde whl)) : r = .next (t.withShadows waf wbc wde whl) := by
  obtain rfl := Host.Outcome.next.inj h
  exact hr

end

/-- No instruction but the two exchanges computes with a shadow cell: its routine does the same with the shadow set
replaced. A meaning is a record update that names no shadow field, so both sides are one record as soon as its selector
says which register it reads or writes. For a conditional transfer and DJNZ this holds in each branch, and the condition
reads F or B. -/
theorem exec_withShadows (waf wbc wde whl : Word) {i : Instr} {s t : State} (hAf : i ≠ .exAfAf) (hExx : i ≠ .exx)
    (h : exec i s = .next t) : exec i (s.withShadows waf wbc wde whl) = .next (t.withShadows waf wbc wde whl) := by
  cases i with
  | exAfAf => exact absurd rfl hAf
  | exx => exact absurd rfl hExx
  | ldRR dst src => cases dst <;> cases src <;> exact next_withShadows h rfl
  | ldRN r | ldRHl r | ldRIx r | ldRIy r | ldHlR r | ldIxR _ r | ldIyR _ r
  | addAR r | adcAR r | subR r | sbcAR r | andR r | xorR r | orR r | cpR r
  | incR r | decR r | rlcR r | rrcR r | rlR r | rrR r | slaR r | sraR r | srlR r =>
    cases r <;> exact next_withShadows h rfl
  | ldDdNn p | ldDdMem p | incSs p | decSs p | popQq p => cases p <;> exact next_withShadows h rfl
  | jpCc | jrCc | callCc | retCc | djnz =>
    refine next_withShadows h ?_
    rw [withShadows_ite]
    rfl
  | _ => exact next_withShadows h rfl

/-- No instruction but the two exchanges writes a shadow cell. This follows from `exec_withShadows` at the shadow set the
state already has: putting it in place changes nothing before the instruction, so nothing after it. -/
theorem exec_keeps_shadows {i : Instr} {s t : State} (hAf : i ≠ .exAfAf) (hExx : i ≠ .exx) (h : exec i s = .next t) :
    t.af' = s.af' ∧ t.bc' = s.bc' ∧ t.de' = s.de' ∧ t.hl' = s.hl' := by
  have hself : exec i s = .next (t.withShadows s.af' s.bc' s.de' s.hl') := exec_withShadows _ _ _ _ hAf hExx h
  have ht : t = t.withShadows s.af' s.bc' s.de' s.hl' := Host.Outcome.next.inj (h.symm.trans hself)
  exact ⟨(congrArg State.af' ht :), (congrArg State.bc' ht :), (congrArg State.de' ht :), (congrArg State.hl' ht :)⟩

/-- Settles O57: the other instructions keep the shadow set and do not depend on it; the exchanges are their meanings. -/
theorem shadowSetReachedOnlyByExchange : Obligations.ShadowSetReachedOnlyByExchange := by
  refine ⟨fun i s t w1 w2 w3 w4 hAf hExx h => ?_, fun s => ⟨rfl, rfl⟩⟩
  obtain ⟨haf, hbc, hde, hhl⟩ := exec_keeps_shadows hAf hExx h
  exact ⟨haf, hbc, hde, hhl, exec_withShadows w1 w2 w3 w4 hAf hExx h⟩

end Sys2Proof.Machine
end

section
/-! Proofs about byte-match rules (spec/30_encoding.md): when a rule matches a byte (R71), and the range pair of a rule
(R74). -/

namespace Sys2Proof

/-! ## Fixed and variable bits of a byte -/

/-- A byte is its fixed bits together with its variable bits. -/
theorem fixedBits_or_variableBits (b m : Byte) : b &&& ~~~m ||| b &&& m = b := by
  rw [← BitVec.and_or_distrib_left, BitVec.or_comm, BitVec.or_not_self, BitVec.and_allOnes]

/-- Setting every variable bit forgets which of them were set. -/
theorem fixedBits_or_mask (b m : Byte) : b &&& ~~~m ||| m = b ||| m := by
  ext i
  cases hm : m[i] <;> simp [hm]

/-- Setting every variable bit leaves the fixed bits as they are. -/
theorem fixedBits_of_or_mask (b m : Byte) : (b ||| m) &&& ~~~m = b &&& ~~~m := by
  simp [BitVec.and_or_distrib_right]

namespace ByteRule

/-! ## When a rule matches (R71, R72) -/

theorem matchesByte_iff (r : ByteRule) (b : Byte) : r.matchesByte b = true ↔
    b &&& ~~~r.varmask = r.const ∧ ∀ p, r.pred = some p → p (b &&& r.varmask) = true := by
  cases h : r.pred <;> simp [matchesByte, h]

theorem fixedBits_of_matches {r : ByteRule} {b : Byte} (h : r.matchesByte b = true) :
    b &&& ~~~r.varmask = r.const :=
  ((matchesByte_iff r b).mp h).1

theorem matchesByte_iff_of_pred_none {r : ByteRule} (h : r.pred = none) (b : Byte) :
    r.matchesByte b = true ↔ b &&& ~~~r.varmask = r.const := by
  simp [matchesByte_iff, h]

/-- The constant of a well-formed rule has fixed bits only (R72). -/
theorem const_fixedBits {r : ByteRule} (h : r.wf = true) : r.const &&& ~~~r.varmask = r.const := by
  have hv : r.const &&& r.varmask = 0#8 := beq_iff_eq.mp h
  simpa [hv] using fixedBits_or_variableBits r.const r.varmask

/-! ## The range pair (R74) -/

/-- The lower end: a matching byte's fixed bits are the constant, and clearing bits does not raise a number. -/
theorem range_fst_le {r : ByteRule} {b : Byte} (h : r.matchesByte b = true) : r.range.1.toNat ≤ b.toNat := by
  calc r.const.toNat
    _ = b.toNat &&& (~~~r.varmask).toNat := by rw [← fixedBits_of_matches h, BitVec.toNat_and]
    _ ≤ b.toNat := Nat.and_le_left

/-- The upper end is a matching byte with every variable bit set, and setting bits does not lower a number. -/
theorem le_range_snd {r : ByteRule} {b : Byte} (h : r.matchesByte b = true) : b.toNat ≤ r.range.2.toNat := by
  calc b.toNat
    _ ≤ b.toNat ||| r.varmask.toNat := Nat.left_le_or
    _ = (r.const ||| r.varmask).toNat := by rw [← fixedBits_of_matches h, fixedBits_or_mask, BitVec.toNat_or]

theorem range_fst_matches {r : ByteRule} (hwf : r.wf = true) (hp : r.pred = none) : r.matchesByte r.range.1 = true :=
  (matchesByte_iff_of_pred_none hp _).mpr (const_fixedBits hwf)

theorem range_snd_matches {r : ByteRule} (hwf : r.wf = true) (hp : r.pred = none) : r.matchesByte r.range.2 = true :=
  (matchesByte_iff_of_pred_none hp _).mpr ((fixedBits_of_or_mask _ _).trans (const_fixedBits hwf))

theorem not_matches_of_fixedBits_ne {r : ByteRule} {b : Byte} (h : b &&& ~~~r.varmask ≠ r.const) :
    r.matchesByte b = false :=
  Bool.eq_false_iff.mpr fun hm => h (fixedBits_of_matches hm)

end ByteRule

/-! ## The rule (0x06, 0x38), the example of R74 -/

/-- The eight bytes with the fixed bits of the rule (0x06, 0x38). -/
theorem mem_of_fixedBits_06_38 : ∀ b : Byte, b &&& ~~~0x38 = 0x06 →
    b ∈ ([0x06, 0x0E, 0x16, 0x1E, 0x26, 0x2E, 0x36, 0x3E] : List Byte) := by decide

/-- The ends are the constant and its bits joined with the mask, whatever the predicate. -/
theorem range_field_06_38 (p : Option BytePred) : (field 0x06 0x38 p).range = (0x06, 0x3E) := by
  simp [field, ByteRule.range]

/-- With any predicate only these eight bytes can match. -/
theorem mem_of_field_06_38_matches {p : Option BytePred} {b : Byte} (h : (field 0x06 0x38 p).matchesByte b = true) :
    b ∈ ([0x06, 0x0E, 0x16, 0x1E, 0x26, 0x2E, 0x36, 0x3E] : List Byte) :=
  mem_of_fixedBits_06_38 b (ByteRule.fixedBits_of_matches h)

/-- Settles O4: the bounds, the ends and the example of the range pair; that the pair ignores the predicate is its
definition. -/
theorem rangePairBoundsMatches : Obligations.RangePairBoundsMatches :=
  ⟨fun _ _ h => ⟨ByteRule.range_fst_le h, ByteRule.le_range_snd h⟩,
    fun _ hwf hp => ⟨ByteRule.range_fst_matches hwf hp, ByteRule.range_snd_matches hwf hp⟩,
    fun _ _ => rfl,
    fun _ _ => ByteRule.not_matches_of_fixedBits_ne,
    fun _ => ⟨range_field_06_38 _, fun _ => mem_of_field_06_38_matches⟩,
    by decide⟩

end Sys2Proof
end

section
/-! Proofs about the ALU (spec/40_alu_flags.md): the 16-bit increment and decrement (R132) and parity (R117). -/

namespace Sys2Proof.Machine

/-! ## inc16, dec16 and the six instructions that use them (R132) -/

/-- R132 as arithmetic: the increment wraps. -/
theorem toNat_inc16 (a : Word) : (inc16 a).toNat = (a.toNat + 1) % 65536 := BitVec.toNat_add a 1

/-- R132 as arithmetic: the decrement wraps. -/
theorem toNat_dec16 (a : Word) : (dec16 a).toNat = (a.toNat + 65535) % 65536 := by
  rw [dec16, BitVec.toNat_sub, Nat.add_comm]
  rfl

/-- An instruction that stores nothing answers as a load of the cells it writes: the frame is `exec_kept`'s, and only
what the new state holds is left to say. -/
theorem loadResult_of_exec {i : Instr} {s t : State} {Q : State → Prop} (hexec : exec i s = .next t)
    (hstores : i.stores s = []) (hQ : Q t) : LoadResult i s i.writes Q := by
  obtain ⟨hcells, hmem, -, -⟩ := exec_kept i s t hexec
  exact ⟨t, hexec, hQ, hcells, hstores ▸ hmem⟩

/-- Settles O47: the arithmetic of the two functions, and per instruction the new value of its cell. No directive is
applied, so F is the old one; everything else is kept by the instruction's footprint. -/
theorem wordIncAndDecKeepFlags : Obligations.WordIncAndDecKeepFlags := by
  refine ⟨fun a => ⟨toNat_inc16 a, toNat_dec16 a⟩, by decide, by decide, fun s => ⟨?_, ?_, ?_, ?_, ?_, ?_⟩⟩
  · exact fun ss => loadResult_of_exec (i := .incSs ss) rfl rfl ⟨State.readRp_writeRp .., State.writeRp_f ..⟩
  · exact fun ss => loadResult_of_exec (i := .decSs ss) rfl rfl ⟨State.readRp_writeRp .., State.writeRp_f ..⟩
  · exact loadResult_of_exec (i := .incIx) rfl rfl ⟨rfl, rfl⟩
  · exact loadResult_of_exec (i := .decIx) rfl rfl ⟨rfl, rfl⟩
  · exact loadResult_of_exec (i := .incIy) rfl rfl ⟨rfl, rfl⟩
  · exact loadResult_of_exec (i := .decIy) rfl rfl ⟨rfl, rfl⟩

/-! ## Parity (R117) -/

/-- The sum of the eight bits counts the positions that hold a 1. -/
theorem onesCount_eq_length_filter (v : Byte) :
    onesCount v = ((List.range 8).filter fun k => v.getLsbD k).length := by
  rw [← List.countP_eq_length_filter]
  simp only [onesCount, List.range_succ, List.range_zero, List.countP_append, List.countP_singleton,
    List.nil_append, Bool.toNat, cond_eq_ite]

/-- Settles O27: parity is the evenness of that count. -/
theorem parityCountsOnes : Obligations.ParityCountsOnes := by
  refine ⟨fun v => ?_, by decide, by decide, by decide⟩
  rw [parity, onesCount_eq_length_filter]
  rfl

end Sys2Proof.Machine
end

section
/-! Proofs about the baseline catalog (spec/30_encoding.md R77, R80, R81, R98): two descriptors never agree with one
byte string, because at some place of both no byte matches both rules. So at most one descriptor matches, the
catalog's order is immaterial, and testing another descriptor fetches no byte past the selected one. -/

namespace Sys2Proof

/-! ## Rules that no byte matches together -/

/-- No byte matches both rules. -/
def ByteRule.Disjoint (r q : ByteRule) : Prop := ∀ b : Byte, (r.matchesByte b && q.matchesByte b) = false

/-- The rules differ in a bit that both fix. -/
def ByteRule.fixedApart (r q : ByteRule) : Bool := (r.const ^^^ q.const) &&& ~~~r.varmask &&& ~~~q.varmask != 0

theorem ByteRule.disjoint_of_fixedApart {r q : ByteRule} (h : r.fixedApart q = true) : r.Disjoint q := by
  intro b
  by_contra hb
  obtain ⟨hr, hq⟩ := (Bool.and_eq_true ..).mp (Bool.eq_true_of_not_eq_false hb)
  rw [fixedApart, ← fixedBits_of_matches hr, ← fixedBits_of_matches hq, bne_iff_ne] at h
  refine h ?_
  ext i
  cases hm : r.varmask[i] <;> cases hn : q.varmask[i] <;> simp [hm, hn]

theorem ByteRule.Disjoint.symm {r q : ByteRule} (h : r.Disjoint q) : q.Disjoint r :=
  fun b => (Bool.and_comm ..).trans (h b)

/-! ## Rule lists that clash -/

/-- At some place of both rule lists no byte matches both rules. -/
def Clash (rs qs : List ByteRule) : Prop := ∃ x ∈ rs.zip qs, x.1.Disjoint x.2

/-- A test for `Clash`: the bits both rules fix are looked at first, and all bytes are tried only where these agree at
every place, as they do where a predicate keeps two descriptors apart. -/
def clashes (rs qs : List ByteRule) : Bool :=
  (rs.zip qs).any (fun x => x.1.fixedApart x.2) ||
    (rs.zip qs).any fun x => decide (∀ b : Byte, (x.1.matchesByte b && x.2.matchesByte b) = false)

theorem clash_of_clashes {rs qs : List ByteRule} (h : clashes rs qs = true) : Clash rs qs := by
  rw [clashes, Bool.or_eq_true, List.any_eq_true, List.any_eq_true] at h
  rcases h with ⟨x, hx, h⟩ | ⟨x, hx, h⟩
  · exact ⟨x, hx, ByteRule.disjoint_of_fixedApart h⟩
  · have hdisj := of_decide_eq_true h
    exact ⟨x, hx, hdisj⟩

theorem Clash.symm {rs qs : List ByteRule} (h : Clash rs qs) : Clash qs rs := by
  obtain ⟨x, hx, h⟩ := h
  exact ⟨x.swap, by rw [← List.zip_swap]; exact List.mem_map_of_mem hx, h.symm⟩

/-- Of two rule lists that clash, one fails on the bytes within the length of both. -/
theorem Clash.leadingMatches_lt {rs qs : List ByteRule} (h : Clash rs qs) (bytes : List Byte) :
    min (leadingMatches rs bytes) (leadingMatches qs bytes) < min rs.length qs.length := by
  induction rs generalizing qs bytes with
  | nil => simp [Clash] at h
  | cons r rs ih =>
    cases qs with
    | nil => simp [Clash] at h
    | cons q qs =>
      cases bytes with
      | nil => simp [leadingMatches]
      | cons b bs =>
        have hlater : Clash rs qs →
            min (leadingMatches rs bs) (leadingMatches qs bs) < min rs.length qs.length := fun h => ih h bs
        have hhere : r.Disjoint q ∨ Clash rs qs := by simpa [Clash] using h
        simp only [leadingMatches, List.length_cons]
        rcases hhere with hd | hc
        · have := hd b
          cases hr : r.matchesByte b <;> cases hq : q.matchesByte b <;> simp_all
        · have := hlater hc
          split <;> split <;> omega

/-! ## The baseline catalog (R98) -/

/-- No two descriptors of the catalog agree with one byte string, whatever the order. -/
def Catalog.Unambiguous (cat : Catalog α) : Prop := cat.Pairwise fun d e => Clash d.rules e.rules

theorem baseline_clashes : baseline.Pairwise fun d e => clashes d.rules e.rules = true := by decide +kernel

theorem baseline_unambiguous : Catalog.Unambiguous baseline := baseline_clashes.imp clash_of_clashes

/-- Two descriptors that clash do not both match. -/
theorem Clash.not_matches {d e : Descriptor α} {bytes : List Byte} (h : Clash d.rules e.rules)
    (hd : d.matches bytes = true) : e.matches bytes = false := by
  by_contra he
  have hlt := h.leadingMatches_lt bytes
  rw [rulesMatch_iff_leadingMatches.mp hd, rulesMatch_iff_leadingMatches.mp (Bool.eq_true_of_not_eq_false he)] at hlt
  exact lt_irrefl _ hlt

/-- Where no two descriptors clash, the one that matches is selected, wherever it stands. -/
theorem Catalog.Unambiguous.select {cat : Catalog α} {d : Descriptor α} {bytes : List Byte} (h : cat.Unambiguous)
    (hd : d ∈ cat) (hm : d.matches bytes = true) : selectDescriptor cat bytes = some d := by
  induction cat with
  | nil => simp at hd
  | cons e es ih =>
    obtain ⟨hclash, hes⟩ := List.pairwise_cons.mp h
    rw [selectDescriptor]
    rcases List.mem_cons.mp hd with rfl | hd
    · rw [if_pos hm]
    · rw [if_neg (by rw [(hclash d hd).symm.not_matches hm]; decide)]
      exact ih hes hd

/-- Every reordering of an unambiguous catalog selects alike. -/
theorem Catalog.Unambiguous.select_perm {cat cat' : Catalog α} (h : cat.Unambiguous) (hperm : cat'.Perm cat)
    (bytes : List Byte) : selectDescriptor cat' bytes = selectDescriptor cat bytes := by
  cases hs : selectDescriptor cat bytes with
  | none =>
    rw [selectDescriptor_none] at hs ⊢
    exact fun d hd => hs d (hperm.mem_iff.mp hd)
  | some d =>
    obtain ⟨hd, hm⟩ := selectDescriptor_some hs
    have h' : Catalog.Unambiguous cat' := (hperm.pairwise_iff fun hc => hc.symm).mpr h
    exact h'.select (hperm.mem_iff.mpr hd) hm

/-- A test that stops before the clash asks for no byte past a descriptor that matches. -/
theorem Clash.bytesTested_le {d e : Descriptor α} {bytes : List Byte} (h : Clash e.rules d.rules)
    (hd : d.matches bytes = true) : e.bytesTested bytes ≤ d.length := by
  have hlt := h.leadingMatches_lt bytes
  rw [rulesMatch_iff_leadingMatches.mp hd] at hlt
  simp only [Descriptor.bytesTested, Descriptor.length]
  omega

/-- An unambiguous catalog fetches exactly the bytes of the selected descriptor (R81). -/
theorem Catalog.Unambiguous.fetchCount_eq {cat : Catalog α} {d : Descriptor α} {bytes : List Byte} (h : cat.Unambiguous)
    (hs : selectDescriptor cat bytes = some d) : fetchCount cat bytes = d.length := by
  refine le_antisymm ?_ (length_le_fetchCount hs)
  obtain ⟨hd, hm⟩ := selectDescriptor_some hs
  clear hs
  induction cat with
  | nil => simp at hd
  | cons e es ih =>
    obtain ⟨hclash, hes⟩ := List.pairwise_cons.mp h
    rw [fetchCount]
    rcases List.mem_cons.mp hd with rfl | hd
    · rw [if_pos hm, Nat.max_zero]
      exact Nat.min_le_right ..
    · rw [if_neg (by rw [(hclash d hd).symm.not_matches hm]; decide)]
      exact Nat.max_le.mpr ⟨(hclash d hd).bytesTested_le hm, ih hes hd⟩

theorem baseline_wf : ∀ d ∈ baseline, d.wf = true := List.all_eq_true.mp (by decide +kernel)

/-- Catalog build gives the catalog when no descriptor is malformed (R382). -/
theorem buildCatalog_of_wf {ds : List (Descriptor α)} (h : ∀ d ∈ ds, d.wf = true) : buildCatalog ds = .ok ds := by
  induction ds with
  | nil => rfl
  | cons d ds ih =>
    obtain ⟨hd, hds⟩ := List.forall_mem_cons.mp h
    simp only [buildCatalog, hd, if_true, ih hds]

/-- Settles O8: every two baseline descriptors clash, from which disjointness, freedom of starts, order and fetch count
follow. -/
theorem baselineDisjointAndStartFree : Obligations.BaselineDisjointAndStartFree := by
  refine ⟨⟨by decide +kernel, buildCatalog_of_wf baseline_wf, Machine.maxLength_baseline⟩, ?_,
    fun cat bytes hperm => baseline_unambiguous.select_perm hperm bytes,
    fun bytes d hs => baseline_unambiguous.fetchCount_eq hs⟩
  intro m n d e bytes more hm hn hlen hd hlen' he
  have hd' : d.matches (bytes ++ more) = true := rulesMatch_append hd
  obtain ⟨hmlt, rfl⟩ := List.getElem?_eq_some_iff.mp hm
  obtain ⟨hnlt, rfl⟩ := List.getElem?_eq_some_iff.mp hn
  have hpair := List.pairwise_iff_getElem.mp baseline_unambiguous
  have hmn : m = n := by
    rcases Nat.lt_trichotomy m n with hlt | heq | hgt
    · rw [(hpair m n hmlt hnlt hlt).not_matches hd'] at he
      exact absurd he (by decide)
    · exact heq
    · rw [(hpair n m hnlt hmlt hgt).not_matches he] at hd'
      exact absurd hd' (by decide)
  subst hmn
  rw [List.length_append, hlen] at hlen'
  exact ⟨rfl, List.eq_nil_of_length_eq_zero (by omega)⟩

end Sys2Proof
end

section
/-! Proofs about the decoder and the encoder (spec/30_encoding.md R70 to R99): a baseline descriptor matches exactly
the encodings of the instructions its routine names. A row is read byte by byte, one lemma per kind of rule: a fixed
byte, an immediate byte or word, a selector inside an opcode byte. -/

namespace Sys2Proof

/-! ## Selectors inside an opcode byte -/

/-- The byte `c` with a selector in its bits from `lo` up. -/
def placeSel (c : Byte) (lo : Nat) {w : Nat} (k : BitVec w) : Byte := c ||| k.setWidth 8 <<< lo

/-- The mask covers the `w` bits from bit `lo` up. -/
structure IsField (m : Byte) (lo w : Nat) : Prop where
  eq_placeSel : ∀ b : Byte, b = placeSel (b &&& ~~~m) lo ((b &&& m).extractLsb' lo w)
  fixedBits : ∀ (k : BitVec w) (b : Byte), placeSel (b &&& ~~~m) lo k &&& ~~~m = b &&& ~~~m
  selector : ∀ (k : BitVec w) (b : Byte), (placeSel (b &&& ~~~m) lo k &&& m).extractLsb' lo w = k

theorem isField_hi3 : IsField 0x38 3 3 := ⟨by decide +kernel, by decide +kernel, by decide +kernel⟩
theorem isField_lo3 : IsField 0x07 0 3 := ⟨by decide +kernel, by decide +kernel, by decide +kernel⟩
theorem isField_hi2 : IsField 0x30 4 2 := ⟨by decide +kernel, by decide +kernel, by decide +kernel⟩
theorem isField_mid2 : IsField 0x18 3 2 := ⟨by decide +kernel, by decide +kernel, by decide +kernel⟩

/-- How the encoder writes a byte with a selector `k`: the rule's constant, which has no bit inside the mask, with `k`
in place. -/
structure Puts (m : Byte) (lo w : Nat) (c : Byte) (put : BitVec w → Byte) : Prop where
  isField : IsField m lo w
  const : c &&& ~~~m = c
  eq : ∀ k, put k = placeSel c lo k

theorem puts_hi3 {c : Byte} (h : c &&& 0x38 = 0) :
    Puts 0x38 3 3 c fun k => c.extractLsb' 6 2 ++ k ++ c.extractLsb' 0 3 :=
  ⟨isField_hi3, by revert c; decide +kernel, by revert c; decide +kernel⟩

theorem puts_lo3 {c : Byte} (h : c &&& 0x07 = 0) : Puts 0x07 0 3 c fun k => c.extractLsb' 3 5 ++ k :=
  ⟨isField_lo3, by revert c; decide +kernel, by revert c; decide +kernel⟩

theorem puts_hi2 {c : Byte} (h : c &&& 0x30 = 0) :
    Puts 0x30 4 2 c fun k => c.extractLsb' 6 2 ++ k ++ c.extractLsb' 0 4 :=
  ⟨isField_hi2, by revert c; decide +kernel, by revert c; decide +kernel⟩

theorem puts_mid2 {c : Byte} (h : c &&& 0x18 = 0) :
    Puts 0x18 3 2 c fun k => c.extractLsb' 5 3 ++ k ++ c.extractLsb' 0 3 :=
  ⟨isField_mid2, by revert c; decide +kernel, by revert c; decide +kernel⟩

section

variable {m c b : Byte} {lo w : Nat} {put : BitVec w → Byte}

theorem Puts.selector (h : Puts m lo w c put) (k : BitVec w) : (put k &&& m).extractLsb' lo w = k := by
  rw [h.eq, ← h.const]
  exact h.isField.selector k c

/-- A rule with a field matches what the encoder writes for some selector, if the predicate accepts it. -/
theorem Puts.matches_iff (h : Puts m lo w c put) {p : Option BytePred} :
    (field c m p).matchesByte b = true ↔ ∃ k, b = put k ∧ ∀ q, p = some q → q (put k &&& m) = true := by
  rw [ByteRule.matchesByte_iff]
  constructor
  · rintro ⟨hfixed, hp⟩
    have hc : b &&& ~~~m = c := hfixed
    have hb : b = put ((b &&& m).extractLsb' lo w) := by
      rw [h.eq, ← hc]
      exact h.isField.eq_placeSel b
    exact ⟨_, hb, hb ▸ hp⟩
  · rintro ⟨k, rfl, hp⟩
    refine ⟨?_, hp⟩
    change put k &&& ~~~m = c
    rw [h.eq, ← h.const]
    exact h.isField.fixedBits k c

end

/-- The predicates of R75 keep a field from being the placeholder. -/
theorem hi3Ne6_iff : ∀ v : Byte, BytePred.hi3Ne6 v = true ↔ v.extractLsb' 3 3 ≠ 6 := by decide +kernel
theorem lo3Ne6_iff : ∀ v : Byte, BytePred.lo3Ne6 v = true ↔ v.extractLsb' 0 3 ≠ 6 := by decide +kernel

theorem R8.sel_ne (q : R8) : q.sel ≠ 6 := by cases q <;> decide

/-! The three opcode bytes whose selectors are not read by these rules: `LD r,r'` has two, JR cc has a short one, and
RST takes its address from the byte. -/

theorem matches_ldRR_iff : ∀ b : Byte, (field 0x40 0x3F (some .bothNe6)).matchesByte b = true ↔
    b = 0b01#2 ++ (b &&& 0x3F).extractLsb' 3 3 ++ (b &&& 0x3F).extractLsb' 0 3 ∧
      (b &&& 0x3F).extractLsb' 3 3 ≠ 6 ∧ (b &&& 0x3F).extractLsb' 0 3 ≠ 6 := by decide +kernel

theorem selectors_ldRR : ∀ k j : BitVec 3, ((0b01#2 ++ k ++ j : Byte) &&& 0x3F).extractLsb' 3 3 = k ∧
    ((0b01#2 ++ k ++ j : Byte) &&& 0x3F).extractLsb' 0 3 = j := by decide +kernel

theorem Cond.sel2_ofSel2 (k : BitVec 2) : (Cond.ofSel2 k).sel2 = k := by revert k; decide
theorem Cond.short_ofSel2 (k : BitVec 2) : (Cond.ofSel2 k).short = true := by revert k; decide

theorem rst_of_matches : ∀ b : Byte, (field 0xC7 0x38 none).matchesByte b = true →
    (Instr.rst (b &&& 0x38)).wf = true ∧ encode (.rst (b &&& 0x38)) = [b] := by decide +kernel

theorem matches_rst : ∀ p : Byte, (Instr.rst p).wf = true →
    (field 0xC7 0x38 none).matchesByte (0b11#2 ++ p.extractLsb' 3 3 ++ 0b111#3) = true ∧
      (0b11#2 ++ p.extractLsb' 3 3 ++ 0b111#3) &&& 0x38 = p := by decide +kernel

/-- How the routine of `LD r,r'` names its instruction. -/
theorem ldRR_congr {p q : Option R8} {dst src : R8} (hp : p = some dst) (hq : q = some src) :
    (p.bind fun dst => q.map fun src => Instr.ldRR dst src) = some (.ldRR dst src) := by
  rw [hp, hq]
  rfl

/-! ## What a row matches is an encoding -/

/-- After the bytes `written`, every byte string the rules match continues the encoding of a well-formed instruction,
the one the routine `f` names. -/
def Sound (rs : List ByteRule) (f : List Byte → Option Instr) (written : List Byte) : Prop :=
  ∀ bytes, rulesMatch rs bytes = true →
    ∃ i, f (extractAll rs bytes) = some i ∧ i.wf = true ∧ encode i ++ bytes.drop rs.length = written ++ bytes

namespace Sound

variable {r : ByteRule} {rs : List ByteRule} {f : List Byte → Option Instr} {written : List Byte} {i : Instr}
  {m c : Byte} {lo w : Nat}

theorem done (hf : f [] = some i) (hwf : i.wf = true) (h : encode i = written) : Sound [] f written :=
  fun _ _ => ⟨i, hf, hwf, by rw [h]; rfl⟩

/-- One rule reads one byte. -/
theorem cons (h : ∀ b, r.matchesByte b = true → Sound rs (fun x => f (r.extract b :: x)) (written ++ [b])) :
    Sound (r :: rs) f written := by
  intro bytes hm
  cases bytes with
  | nil => simp [rulesMatch] at hm
  | cons b bs =>
    obtain ⟨hb, hbs⟩ := (Bool.and_eq_true ..).mp hm
    obtain ⟨i, hi, hwf, he⟩ := h b hb bs hbs
    exact ⟨i, hi, hwf, by rw [List.length_cons, List.drop_succ_cons, he, List.append_assoc]; rfl⟩

theorem fixed (h : Sound rs (fun x => f (0 :: x)) (written ++ [c])) : Sound (fixed c :: rs) f written := by
  refine cons fun b hb => ?_
  obtain rfl := (fixed_matches_iff c b).mp hb
  simpa [ByteRule.extract, Sys2Proof.fixed] using h

theorem any (h : ∀ n, Sound rs (fun x => f (n :: x)) (written ++ [n])) : Sound (anyByte :: rs) f written :=
  cons fun b _ => by simpa using h b

/-- Two immediate bytes are a word, low byte first (R89). -/
theorem word (h : ∀ lo hi, Sound rs (fun x => f (lo :: hi :: x))
    (written ++ [loByte (wordOf hi lo), hiByte (wordOf hi lo)])) : Sound (anyByte :: anyByte :: rs) f written :=
  any fun lo => any fun hi => by simpa using h lo hi

/-- A selector of a table that defines all of its values; `s` is a selector read and written again. -/
theorem sel {put : BitVec w → Byte} (hput : Puts m lo w c put) {s : BitVec w → BitVec w} (hs : ∀ k, s k = k)
    (h : ∀ v : Byte, Sound rs (fun x => f (v :: x)) (written ++ [put (s (v.extractLsb' lo w))])) :
    Sound (field c m none :: rs) f written := by
  refine cons fun b hb => ?_
  obtain ⟨k, rfl, -⟩ := hput.matches_iff.mp hb
  have := h (put k &&& m)
  rwa [hs, hput.selector] at this

/-- A selector of an 8-bit register, which the predicate keeps from being the placeholder. -/
theorem reg {put : BitVec 3 → Byte} (hput : Puts m lo 3 c put) {p : BytePred}
    (hp : ∀ v, p v = true ↔ v.extractLsb' lo 3 ≠ 6)
    (h : ∀ (v : Byte) (q : R8), R8.ofSel (v.extractLsb' lo 3) = some q →
      Sound rs (fun x => f (v :: x)) (written ++ [put q.sel])) :
    Sound (field c m (some p) :: rs) f written := by
  refine cons fun b hb => ?_
  obtain ⟨k, rfl, hk⟩ := hput.matches_iff.mp hb
  obtain ⟨q, hq, hsel⟩ := R8.ofSel_of_ne ((hp _).mp (hk p rfl))
  have := h (put k &&& m) q hq
  rwa [hsel, hput.selector] at this

/-- The two selectors of `LD r,r'`. -/
theorem regs (h : ∀ (v : Byte) (dst src : R8), R8.ofSel (v.extractLsb' 3 3) = some dst →
      R8.ofSel (v.extractLsb' 0 3) = some src →
      Sound rs (fun x => f (v :: x)) (written ++ [0b01#2 ++ dst.sel ++ src.sel])) :
    Sound (field 0x40 0x3F (some .bothNe6) :: rs) f written := by
  refine cons fun b hb => ?_
  obtain ⟨heq, hne, hne'⟩ := (matches_ldRR_iff b).mp hb
  obtain ⟨dst, hdst, hsel⟩ := R8.ofSel_of_ne hne
  obtain ⟨src, hsrc, hsel'⟩ := R8.ofSel_of_ne hne'
  have := h _ dst src hdst hsrc
  rwa [hsel, hsel', ← heq] at this

end Sound

/-- Whatever the descriptor matches is the encoding of a well-formed instruction, the one its routine names. -/
def Descriptor.Faithful (d : Descriptor Instr) : Prop := Sound d.rules d.routine []

theorem catalogLoad8_faithful : ∀ d ∈ catalogLoad8, d.Faithful := by
  simp only [catalogLoad8, List.forall_mem_cons]
  refine ⟨?ldRR, ?ldRN, ?ldRHl, ?ldHlR, ?ldHlN, ?ldRIx, ?ldRIy, ?ldIxR, ?ldIyR, ?ldIxN, ?ldIyN, ?ldABc, ?ldADe,
    ?ldANn, ?ldBcA, ?ldDeA, ?ldNnA, ?ldAI, ?ldAR, ?ldIA, ?ldRA, by simp⟩
  case ldRR => exact .regs fun _ _ _ hd hs => .done (ldRR_congr hd hs) rfl rfl
  case ldRN =>
    exact .reg (puts_hi3 rfl) hi3Ne6_iff fun _ _ h => .any fun _ => .done (congrArg (Option.map _) h) rfl rfl
  case ldRHl => exact .reg (puts_hi3 rfl) hi3Ne6_iff fun _ _ h => .done (congrArg (Option.map _) h) rfl rfl
  case ldHlR => exact .reg (puts_lo3 rfl) lo3Ne6_iff fun _ _ h => .done (congrArg (Option.map _) h) rfl rfl
  case ldHlN => exact .fixed (.any fun _ => .done rfl rfl rfl)
  case ldRIx | ldRIy =>
    exact .fixed (.reg (puts_hi3 rfl) hi3Ne6_iff fun _ _ h => .any fun _ => .done (congrArg (Option.map _) h) rfl rfl)
  case ldIxR | ldIyR =>
    exact .fixed (.reg (puts_lo3 rfl) lo3Ne6_iff fun _ _ h => .any fun _ => .done (congrArg (Option.map _) h) rfl rfl)
  case ldIxN | ldIyN => exact .fixed (.fixed (.any fun _ => .any fun _ => .done rfl rfl rfl))
  case ldABc | ldADe | ldBcA | ldDeA => exact .fixed (.done rfl rfl rfl)
  case ldANn | ldNnA => exact .fixed (.word fun _ _ => .done rfl rfl rfl)
  case ldAI | ldAR | ldIA | ldRA => exact .fixed (.fixed (.done rfl rfl rfl))

theorem catalogLoad16_faithful : ∀ d ∈ catalogLoad16, d.Faithful := by
  simp only [catalogLoad16, List.forall_mem_cons]
  refine ⟨?ldDdNn, ?ldIxNn, ?ldIyNn, ?ldHlMem, ?ldDdMem, ?ldIxMem, ?ldIyMem, ?ldMemHl, ?ldMemDd, ?ldMemIx,
    ?ldMemIy, ?ldSpHl, ?ldSpIx, ?ldSpIy, ?pushQq, ?pushIx, ?pushIy, ?popQq, ?popIx, ?popIy, ?exDeHl, ?exAfAf,
    ?exx, ?exSpHl, ?exSpIx, ?exSpIy, by simp⟩
  case ldDdNn => exact .sel (puts_hi2 rfl) Rp.sel_ofSel fun _ => .word fun _ _ => .done rfl rfl rfl
  case ldIxNn | ldIyNn | ldIxMem | ldIyMem | ldMemIx | ldMemIy =>
    exact .fixed (.fixed (.word fun _ _ => .done rfl rfl rfl))
  case ldHlMem | ldMemHl => exact .fixed (.word fun _ _ => .done rfl rfl rfl)
  case ldDdMem | ldMemDd =>
    exact .fixed (.sel (puts_hi2 rfl) Rp.sel_ofSel fun _ => .word fun _ _ => .done rfl rfl rfl)
  case ldSpHl | exDeHl | exAfAf | exx | exSpHl => exact .fixed (.done rfl rfl rfl)
  case ldSpIx | ldSpIy | pushIx | pushIy | popIx | popIy | exSpIx | exSpIy =>
    exact .fixed (.fixed (.done rfl rfl rfl))
  case pushQq | popQq => exact .sel (puts_hi2 rfl) Rp2.sel_ofSel fun _ => .done rfl rfl rfl

theorem catalogArith8A_faithful : ∀ d ∈ catalogArith8A, d.Faithful := by
  simp only [catalogArith8A, List.forall_mem_cons]
  refine ⟨?addAR, ?addAN, ?addAHl, ?addAIx, ?addAIy, ?adcAR, ?adcAN, ?adcAHl, ?adcAIx, ?adcAIy, ?subR, ?subN,
    ?subHl, ?subIx, ?subIy, ?sbcAR, ?sbcAN, ?sbcAHl, ?sbcAIx, ?sbcAIy, ?andR, ?andN, ?andHl, ?andIx, ?andIy,
    ?xorR, by simp⟩
  case addAR | adcAR | subR | sbcAR | andR | xorR =>
    exact .reg (puts_lo3 rfl) lo3Ne6_iff fun _ _ h => .done (congrArg (Option.map _) h) rfl rfl
  case addAN | adcAN | subN | sbcAN | andN => exact .fixed (.any fun _ => .done rfl rfl rfl)
  case addAHl | adcAHl | subHl | sbcAHl | andHl => exact .fixed (.done rfl rfl rfl)
  case addAIx | addAIy | adcAIx | adcAIy | subIx | subIy | sbcAIx | sbcAIy | andIx | andIy =>
    exact .fixed (.fixed (.any fun _ => .done rfl rfl rfl))

theorem catalogArith8B_faithful : ∀ d ∈ catalogArith8B, d.Faithful := by
  simp only [catalogArith8B, List.forall_mem_cons]
  refine ⟨?xorN, ?xorHl, ?xorIx, ?xorIy, ?orR, ?orN, ?orHl, ?orIx, ?orIy, ?cpR, ?cpN, ?cpHl, ?cpIx, ?cpIy, ?incR,
    ?incMemHl, ?incMemIx, ?incMemIy, ?decR, ?decMemHl, ?decMemIx, ?decMemIy, ?cpl, ?neg, ?ccf, ?scf, by simp⟩
  case xorN | orN | cpN => exact .fixed (.any fun _ => .done rfl rfl rfl)
  case xorHl | orHl | cpHl | incMemHl | decMemHl | cpl | ccf | scf => exact .fixed (.done rfl rfl rfl)
  case xorIx | xorIy | orIx | orIy | cpIx | cpIy | incMemIx | incMemIy | decMemIx | decMemIy =>
    exact .fixed (.fixed (.any fun _ => .done rfl rfl rfl))
  case orR | cpR => exact .reg (puts_lo3 rfl) lo3Ne6_iff fun _ _ h => .done (congrArg (Option.map _) h) rfl rfl
  case incR | decR => exact .reg (puts_hi3 rfl) hi3Ne6_iff fun _ _ h => .done (congrArg (Option.map _) h) rfl rfl
  case neg => exact .fixed (.fixed (.done rfl rfl rfl))

theorem catalogArith16_faithful : ∀ d ∈ catalogArith16, d.Faithful := by
  simp only [catalogArith16, List.forall_mem_cons]
  refine ⟨?addHlSs, ?adcHlSs, ?sbcHlSs, ?addIxPp, ?addIyRr, ?incSs, ?decSs, ?incIx, ?decIx, ?incIy, ?decIy,
    by simp⟩
  case addHlSs | incSs | decSs => exact .sel (puts_hi2 rfl) Rp.sel_ofSel fun _ => .done rfl rfl rfl
  case adcHlSs | sbcHlSs => exact .fixed (.sel (puts_hi2 rfl) Rp.sel_ofSel fun _ => .done rfl rfl rfl)
  case addIxPp => exact .fixed (.sel (puts_hi2 rfl) Rpx.sel_ofSel fun _ => .done rfl rfl rfl)
  case addIyRr => exact .fixed (.sel (puts_hi2 rfl) Rpy.sel_ofSel fun _ => .done rfl rfl rfl)
  case incIx | decIx | incIy | decIy => exact .fixed (.fixed (.done rfl rfl rfl))

theorem catalogRotateA_faithful : ∀ d ∈ catalogRotateA, d.Faithful := by
  simp only [catalogRotateA, List.forall_mem_cons]
  refine ⟨?rlca, ?rrca, ?rla, ?rra, ?rlcR, ?rlcHl, ?rlcIx, ?rlcIy, ?rrcR, ?rrcHl, ?rrcIx, ?rrcIy, ?rlR, ?rlHl,
    ?rlIx, ?rlIy, ?rrR, ?rrHl, ?rrIx, ?rrIy, ?slaR, ?slaHl, ?slaIx, ?slaIy, ?sraR, ?sraHl, by simp⟩
  case rlca | rrca | rla | rra => exact .fixed (.done rfl rfl rfl)
  case rlcR | rrcR | rlR | rrR | slaR | sraR =>
    exact .fixed (.reg (puts_lo3 rfl) lo3Ne6_iff fun _ _ h => .done (congrArg (Option.map _) h) rfl rfl)
  case rlcHl | rrcHl | rlHl | rrHl | slaHl | sraHl => exact .fixed (.fixed (.done rfl rfl rfl))
  case rlcIx | rlcIy | rrcIx | rrcIy | rlIx | rlIy | rrIx | rrIy | slaIx | slaIy =>
    exact .fixed (.fixed (.any fun _ => .fixed (.done rfl rfl rfl)))

theorem catalogRotateB_faithful : ∀ d ∈ catalogRotateB, d.Faithful := by
  simp only [catalogRotateB, List.forall_mem_cons]
  refine ⟨?sraIx, ?sraIy, ?srlR, ?srlHl, ?srlIx, ?srlIy, by simp⟩
  case sraIx | sraIy | srlIx | srlIy => exact .fixed (.fixed (.any fun _ => .fixed (.done rfl rfl rfl)))
  case srlR => exact .fixed (.reg (puts_lo3 rfl) lo3Ne6_iff fun _ _ h => .done (congrArg (Option.map _) h) rfl rfl)
  case srlHl => exact .fixed (.fixed (.done rfl rfl rfl))

theorem catalogControl_faithful : ∀ d ∈ catalogControl, d.Faithful := by
  simp only [catalogControl, List.forall_mem_cons]
  refine ⟨?jpNn, ?jpCc, ?jr, ?jrCc, ?jpHl, ?jpIx, ?jpIy, ?djnz, ?callNn, ?callCc, ?ret, ?retCc, ?reti, ?retn, ?rst,
    ?nop, ?di, ?ei, by simp⟩
  case jpNn | callNn => exact .fixed (.word fun _ _ => .done rfl rfl rfl)
  case jpCc | callCc => exact .sel (puts_hi3 rfl) Cond.sel_ofSel fun _ => .word fun _ _ => .done rfl rfl rfl
  case jr | djnz => exact .fixed (.any fun _ => .done rfl rfl rfl)
  case jrCc => exact .sel (puts_mid2 rfl) Cond.sel2_ofSel2 fun _ => .any fun _ => .done rfl (Cond.short_ofSel2 _) rfl
  case jpHl | ret | nop | di | ei => exact .fixed (.done rfl rfl rfl)
  case jpIx | jpIy | reti | retn => exact .fixed (.fixed (.done rfl rfl rfl))
  case retCc => exact .sel (puts_hi3 rfl) Cond.sel_ofSel fun _ => .done rfl rfl rfl
  case rst => exact .cons fun b hb => .done rfl (rst_of_matches b hb).1 (rst_of_matches b hb).2

/-- Every row of the table (R99). -/
theorem baseline_faithful : ∀ d ∈ baseline, d.Faithful := by
  simp only [baseline, List.forall_mem_append]
  exact ⟨⟨⟨⟨⟨⟨⟨catalogLoad8_faithful, catalogLoad16_faithful⟩, catalogArith8A_faithful⟩, catalogArith8B_faithful⟩,
    catalogArith16_faithful⟩, catalogRotateA_faithful⟩, catalogRotateB_faithful⟩, catalogControl_faithful⟩

/-! ## An encoding is matched by its instruction's row -/

/-- The rules match the bytes, and the routine `f` names the instruction. -/
structure Gives (rs : List ByteRule) (f : List Byte → Option Instr) (bytes : List Byte) (i : Instr) : Prop where
  matching : rulesMatch rs bytes = true
  routine : f (extractAll rs bytes) = some i

namespace Gives

variable {r : ByteRule} {rs : List ByteRule} {f : List Byte → Option Instr} {bytes : List Byte} {i : Instr}
  {b m c : Byte} {lo w : Nat}

theorem nil (hf : f [] = some i) : Gives [] f bytes i := ⟨rfl, hf⟩

theorem cons (hb : r.matchesByte b = true) (h : Gives rs (fun x => f (r.extract b :: x)) bytes i) :
    Gives (r :: rs) f (b :: bytes) i := ⟨by rw [rulesMatch, hb, h.matching]; rfl, h.routine⟩

theorem fixed (h : Gives rs (fun x => f (0 :: x)) bytes i) : Gives (fixed c :: rs) f (c :: bytes) i :=
  cons ((fixed_matches_iff c c).mpr rfl) (by simpa [ByteRule.extract, Sys2Proof.fixed] using h)

theorem any (h : Gives rs (fun x => f (b :: x)) bytes i) : Gives (anyByte :: rs) f (b :: bytes) i :=
  cons (anyByte_matches b) (by simpa using h)

theorem word {nn : Word} (h : ∀ lo hi, wordOf hi lo = nn → Gives rs (fun x => f (lo :: hi :: x)) bytes i) :
    Gives (anyByte :: anyByte :: rs) f (loByte nn :: hiByte nn :: bytes) i :=
  any (any (h _ _ (wordOf_hiByte_loByte nn)))

theorem sel {put : BitVec w → Byte} (hput : Puts m lo w c put) {ofSel : BitVec w → σ} {k : BitVec w} {p : σ}
    (hk : ofSel k = p) (h : ∀ v : Byte, ofSel (v.extractLsb' lo w) = p → Gives rs (fun x => f (v :: x)) bytes i) :
    Gives (field c m none :: rs) f (put k :: bytes) i :=
  cons (hput.matches_iff.mpr ⟨k, rfl, fun _ h => nomatch h⟩) (h _ ((congrArg ofSel (hput.selector k)).trans hk))

theorem reg {put : BitVec 3 → Byte} (hput : Puts m lo 3 c put) {p : BytePred}
    (hp : ∀ v, p v = true ↔ v.extractLsb' lo 3 ≠ 6) {q : R8}
    (h : ∀ v : Byte, R8.ofSel (v.extractLsb' lo 3) = some q → Gives rs (fun x => f (v :: x)) bytes i) :
    Gives (field c m (some p) :: rs) f (put q.sel :: bytes) i := by
  refine cons (hput.matches_iff.mpr ⟨q.sel, rfl, ?_⟩)
    (h _ ((congrArg R8.ofSel (hput.selector q.sel)).trans q.ofSel_sel))
  rintro _ ⟨⟩
  rw [hp, hput.selector]
  exact q.sel_ne

theorem regs {dst src : R8} (h : ∀ v : Byte, R8.ofSel (v.extractLsb' 3 3) = some dst →
      R8.ofSel (v.extractLsb' 0 3) = some src → Gives rs (fun x => f (v :: x)) bytes i) :
    Gives (field 0x40 0x3F (some .bothNe6) :: rs) f ((0b01#2 ++ dst.sel ++ src.sel) :: bytes) i := by
  obtain ⟨hdst, hsrc⟩ := selectors_ldRR dst.sel src.sel
  refine cons ((matches_ldRR_iff _).mpr ?_)
    (h _ ((congrArg R8.ofSel hdst).trans dst.ofSel_sel) ((congrArg R8.ofSel hsrc).trans src.ofSel_sel))
  rw [hdst, hsrc]
  exact ⟨rfl, dst.sel_ne, src.sel_ne⟩

end Gives

/-- The row of an instruction stands at the place of its constructor (R99), and matches its encoding. -/
theorem row_gives {i : Instr} (hwf : i.wf = true) (rest : List Byte) :
    ∃ d, baseline[i.ctorIdx]? = some d ∧ Gives d.rules d.routine (encode i ++ rest) i := by
  cases i with
  | ldRR => exact ⟨_, rfl, .regs fun _ hd hs => .nil (ldRR_congr hd hs)⟩
  | ldRN => exact ⟨_, rfl, .reg (puts_hi3 rfl) hi3Ne6_iff fun _ h => .any (.nil (congrArg (Option.map _) h))⟩
  | ldRHl | incR | decR => exact ⟨_, rfl, .reg (puts_hi3 rfl) hi3Ne6_iff fun _ h => .nil (congrArg (Option.map _) h)⟩
  | ldHlR | addAR | adcAR | subR | sbcAR | andR | xorR | orR | cpR =>
    exact ⟨_, rfl, .reg (puts_lo3 rfl) lo3Ne6_iff fun _ h => .nil (congrArg (Option.map _) h)⟩
  | ldHlN | addAN | adcAN | subN | sbcAN | andN | xorN | orN | cpN | jr | djnz =>
    exact ⟨_, rfl, .fixed (.any (.nil rfl))⟩
  | ldRIx | ldRIy =>
    exact ⟨_, rfl, .fixed (.reg (puts_hi3 rfl) hi3Ne6_iff fun _ h => .any (.nil (congrArg (Option.map _) h)))⟩
  | ldIxR | ldIyR =>
    exact ⟨_, rfl, .fixed (.reg (puts_lo3 rfl) lo3Ne6_iff fun _ h => .any (.nil (congrArg (Option.map _) h)))⟩
  | ldIxN | ldIyN => exact ⟨_, rfl, .fixed (.fixed (.any (.any (.nil rfl))))⟩
  | ldABc | ldADe | ldBcA | ldDeA | ldSpHl | exDeHl | exAfAf | exx | exSpHl | addAHl | adcAHl | subHl
  | sbcAHl | andHl | xorHl | orHl | cpHl | incMemHl | decMemHl | cpl | ccf | scf | rlca | rrca | rla | rra
  | jpHl | ret | nop | di | ei => exact ⟨_, rfl, .fixed (.nil rfl)⟩
  | ldANn | ldNnA | ldHlMem | ldMemHl | jpNn | callNn => exact ⟨_, rfl, .fixed (.word fun _ _ h => .nil (h ▸ rfl))⟩
  | ldAI | ldAR | ldIA | ldRA | ldSpIx | ldSpIy | pushIx | pushIy | popIx | popIy | exSpIx | exSpIy | neg
  | incIx | decIx | incIy | decIy | rlcHl | rrcHl | rlHl | rrHl | slaHl | sraHl | srlHl | jpIx | jpIy | reti
  | retn => exact ⟨_, rfl, .fixed (.fixed (.nil rfl))⟩
  | ldDdNn => exact ⟨_, rfl, .sel (puts_hi2 rfl) (Rp.ofSel_sel _) fun _ hk => .word fun _ _ h => .nil (hk ▸ h ▸ rfl)⟩
  | ldIxNn | ldIyNn | ldIxMem | ldIyMem | ldMemIx | ldMemIy =>
    exact ⟨_, rfl, .fixed (.fixed (.word fun _ _ h => .nil (h ▸ rfl)))⟩
  | ldDdMem | ldMemDd =>
    exact ⟨_, rfl, .fixed (.sel (puts_hi2 rfl) (Rp.ofSel_sel _) fun _ hk => .word fun _ _ h => .nil (hk ▸ h ▸ rfl))⟩
  | pushQq | popQq => exact ⟨_, rfl, .sel (puts_hi2 rfl) (Rp2.ofSel_sel _) fun _ hk => .nil (hk ▸ rfl)⟩
  | addAIx | addAIy | adcAIx | adcAIy | subIx | subIy | sbcAIx | sbcAIy | andIx | andIy | xorIx | xorIy
  | orIx | orIy | cpIx | cpIy | incMemIx | incMemIy | decMemIx | decMemIy =>
    exact ⟨_, rfl, .fixed (.fixed (.any (.nil rfl)))⟩
  | addHlSs | incSs | decSs => exact ⟨_, rfl, .sel (puts_hi2 rfl) (Rp.ofSel_sel _) fun _ hk => .nil (hk ▸ rfl)⟩
  | adcHlSs | sbcHlSs => exact ⟨_, rfl, .fixed (.sel (puts_hi2 rfl) (Rp.ofSel_sel _) fun _ hk => .nil (hk ▸ rfl))⟩
  | addIxPp => exact ⟨_, rfl, .fixed (.sel (puts_hi2 rfl) (Rpx.ofSel_sel _) fun _ hk => .nil (hk ▸ rfl))⟩
  | addIyRr => exact ⟨_, rfl, .fixed (.sel (puts_hi2 rfl) (Rpy.ofSel_sel _) fun _ hk => .nil (hk ▸ rfl))⟩
  | rlcR | rrcR | rlR | rrR | slaR | sraR | srlR =>
    exact ⟨_, rfl, .fixed (.reg (puts_lo3 rfl) lo3Ne6_iff fun _ h => .nil (congrArg (Option.map _) h))⟩
  | rlcIx | rlcIy | rrcIx | rrcIy | rlIx | rlIy | rrIx | rrIy | slaIx | slaIy | sraIx | sraIy | srlIx
  | srlIy => exact ⟨_, rfl, .fixed (.fixed (.any (.fixed (.nil rfl))))⟩
  | jpCc | callCc =>
    exact ⟨_, rfl, .sel (puts_hi3 rfl) (Cond.ofSel_sel _) fun _ hk => .word fun _ _ h => .nil (hk ▸ h ▸ rfl)⟩
  | jrCc => exact ⟨_, rfl, .sel (puts_mid2 rfl) (Cond.ofSel2_sel2 hwf) fun _ hk => .any (.nil (hk ▸ rfl))⟩
  | retCc => exact ⟨_, rfl, .sel (puts_hi3 rfl) (Cond.ofSel_sel _) fun _ hk => .nil (hk ▸ rfl)⟩
  | rst p => exact ⟨_, rfl, .cons (matches_rst p hwf).1 (.nil (congrArg (some ∘ Instr.rst) (matches_rst p hwf).2))⟩

/-- What a byte string that starts with an encoding selects. -/
theorem select_encode {i : Instr} (hwf : i.wf = true) (rest : List Byte) :
    ∃ d, baseline[i.ctorIdx]? = some d ∧ selectDescriptor baseline (encode i ++ rest) = some d ∧
      d.routine (extractAll d.rules (encode i ++ rest)) = some i ∧ d.length = (encode i).length := by
  obtain ⟨d, hd, hm, hr⟩ := row_gives hwf rest
  have hmem := List.mem_of_getElem? hd
  obtain ⟨j, hj, -, he⟩ := baseline_faithful d hmem _ hm
  obtain rfl := Option.some.inj (hr.symm.trans hj)
  refine ⟨d, hd, baseline_unambiguous.select hmem hm, hr, ?_⟩
  have hlen := congrArg List.length (List.append_cancel_left he)
  have := length_of_rulesMatch hm
  simp only [List.length_drop, List.length_append] at hlen this
  rw [Descriptor.length]
  omega

/-- Settles O1: the encoding selects its instruction's row, whose routine names the instruction. -/
theorem decodeOfEncode : Obligations.DecodeOfEncode := by
  intro i rest hwf
  obtain ⟨d, -, hs, hr, hlen⟩ := select_encode hwf rest
  rw [decode, decodeWith_of_select hs hr, hlen, List.drop_left]

/-- Settles O2: a byte string decodes by a row that matches it, and each row is faithful to the encoder. -/
theorem encodeOfDecode : Obligations.EncodeOfDecode := by
  intro i bytes rest h
  obtain ⟨d, hd, -, hm, hr, rfl⟩ := select_of_decodeWith h
  obtain ⟨j, hj, hwf, he⟩ := baseline_faithful d hd bytes hm
  obtain rfl := Option.some.inj (hr.symm.trans hj)
  exact ⟨hwf, he⟩

/-- Settles O3: each word is the encoding of its instruction, so it decodes to it. -/
theorem writtenWordsDecode : Obligations.WrittenWordsDecode :=
  ⟨decodeOfEncode (.ldRR .b .c) [] rfl, decodeOfEncode (.ldRIx .a 0xFE) [] rfl, decodeOfEncode (.addHlSs .sp) [] rfl,
    decodeOfEncode (.adcHlSs .de) [] rfl, decodeOfEncode (.rrcIy 0x05) [] rfl, decodeOfEncode (.jrCc .nc 0xFC) [] rfl,
    decodeOfEncode (.rst 0x28) [] rfl, decodeOfEncode (.ldMemDd 0x6000 .sp) [] rfl⟩

end Sys2Proof
end

section
/-! Proofs about byte-match rules, descriptors and the dispatcher for any catalog (spec/30_encoding.md R71 to R83,
spec/60_exceptions.md R381, R382): which rules match nothing, which descriptors are malformed, which descriptor is
selected and what a run of the dispatcher reports. -/

namespace Sys2Proof

/-! ## Rules that match no byte (R71, R72) -/

namespace ByteRule

/-- A rule that some byte matches has no fixed bit inside its mask. -/
theorem wf_of_matches {r : ByteRule} {b : Byte} (h : r.matchesByte b = true) : r.wf = true := by
  simp [wf, ← fixedBits_of_matches h, BitVec.and_assoc]

/-- The byte of a well-formed rule with the variable bits `v`. -/
theorem const_or_matches {r : ByteRule} (hwf : r.wf = true) {v : Byte} (hv : v &&& ~~~r.varmask = 0) :
    (r.const ||| v) &&& ~~~r.varmask = r.const ∧ (r.const ||| v) &&& r.varmask = v := by
  have hc : r.const &&& r.varmask = 0#8 := beq_iff_eq.mp hwf
  have hv' : v &&& r.varmask = v := by simpa [hv] using fixedBits_or_variableBits v r.varmask
  rw [BitVec.and_or_distrib_right, BitVec.and_or_distrib_right, const_fixedBits hwf, hv, hc, hv']
  exact ⟨BitVec.or_zero, BitVec.zero_or⟩

/-- Exactly these rules match no byte. -/
theorem matches_nothing_iff (r : ByteRule) : (∀ b, r.matchesByte b = false) ↔
    (r.wf = false ∨ ∃ p, r.pred = some p ∧ ∀ v : Byte, v &&& ~~~r.varmask = 0 → p v = false) := by
  constructor
  · intro h
    by_cases hwf : r.wf = true
    · right
      cases hp : r.pred with
      | none => exact absurd (range_fst_matches hwf hp) (by rw [h]; decide)
      | some p =>
        refine ⟨p, rfl, fun v hv => ?_⟩
        obtain ⟨hfixed, hvar⟩ := const_or_matches hwf hv
        have := h (r.const ||| v)
        simpa [matchesByte, hp, hfixed, hvar] using this
    · exact .inl (Bool.eq_false_iff.mpr hwf)
  · intro h b
    by_contra hb
    have hm := Bool.eq_true_of_not_eq_false hb
    rcases h with hwf | ⟨p, hp, hrefuses⟩
    · rw [wf_of_matches hm] at hwf
      exact absurd hwf (by decide)
    · have hv : b &&& r.varmask &&& ~~~r.varmask = 0 := by simp [BitVec.and_assoc]
      have := ((matchesByte_iff r b).mp hm).2 p hp
      rw [hrefuses _ hv] at this
      exact absurd this (by decide)

end ByteRule

/-! ## Malformed descriptors (R77, R382) -/

theorem Descriptor.wf_iff (d : Descriptor α) : d.wf = true ↔
    d.rules ≠ [] ∧ (∀ r ∈ d.rules, r.wf = true) ∧ d.cost.length = d.rules.length ∧ 1 ≤ d.cost.sum ∧
      ∀ t, d.costAlt = some t → t.length = d.rules.length ∧ 1 ≤ t.sum := by
  cases h : d.costAlt <;> simp [wf, length, h, and_assoc]

/-- The six ways to be malformed. -/
theorem Descriptor.wf_false_iff (d : Descriptor α) : d.wf = false ↔
    (d.rules = [] ∨ d.cost.length ≠ d.rules.length ∨ (∃ t, d.costAlt = some t ∧ t.length ≠ d.rules.length) ∨
      (∃ r ∈ d.rules, r.const &&& r.varmask ≠ 0) ∨ d.cost.sum < 1 ∨ ∃ t, d.costAlt = some t ∧ t.sum < 1) := by
  rw [← Bool.not_eq_true, wf_iff]
  cases h : d.costAlt <;> simp [ByteRule.wf] <;> grind

/-- Settles O5: when a rule matches, that a well-formed one without predicate matches its constant, which rules match
nothing, and that the baseline has none with a fixed bit in its mask. -/
theorem illFormedRuleMatchesNothing : Obligations.IllFormedRuleMatchesNothing :=
  ⟨ByteRule.matchesByte_iff, fun _ hwf hp => ⟨_, ByteRule.range_fst_matches hwf hp⟩, ByteRule.matches_nothing_iff,
    fun d hd => ((Descriptor.wf_iff d).mp (baseline_wf d hd)).2.1⟩

/-- Catalog build reports the first malformed descriptor (R382). -/
theorem buildCatalog_of_not_wf {ds : List (Descriptor α)} (h : ∃ d ∈ ds, d.wf = false) :
    ∃ d ∈ ds, d.wf = false ∧ buildCatalog ds = .error (.malformedDescriptor d.mnemonic) := by
  induction ds with
  | nil => simp at h
  | cons e es ih =>
    cases he : e.wf with
    | false => exact ⟨e, by simp, he, by simp [buildCatalog, he]⟩
    | true =>
      obtain ⟨d, hd, hwf, hb⟩ := ih (by simpa [he] using h)
      exact ⟨d, by simp [hd], hwf, by simp [buildCatalog, he, hb]⟩

namespace Machine

/-- The only fault of a run, whatever the catalog (R381, R384). -/
theorem fault_of_dispatchOn {cat : Catalog Routine} {bytes : List Byte} {s : State} {f : Fault}
    (h : dispatchOn cat bytes s = .fault f) : f = .illegalOpcode s.pc (bytes.take (fetchCount cat bytes)) := by
  rcases dispatchOn_cases cat bytes s with ⟨-, hd⟩ | ⟨_, _, _, _, -, -, -, hd⟩ | ⟨_, hd⟩
  · rw [hd] at h
    exact (Host.Outcome.fault.inj h).symm
  · simp [hd] at h
  · simp [hd] at h

end Machine

/-- Settles O6: the checks of a descriptor, both outcomes of catalog build, and the one fault of a run. -/
theorem malformedDescriptorChecks : Obligations.MalformedDescriptorChecks :=
  ⟨Descriptor.wf_false_iff, fun _ => ⟨buildCatalog_of_wf, buildCatalog_of_not_wf⟩,
    fun _ _ _ => Machine.fault_of_dispatchOn⟩

/-! ## Selection (R80) -/

/-- All rules match when each matches the byte at its place. -/
theorem rulesMatch_iff_getElem? {rs : List ByteRule} {bytes : List Byte} : rulesMatch rs bytes = true ↔
    ∀ (k : Nat) (r : ByteRule), rs[k]? = some r → ∃ b, bytes[k]? = some b ∧ r.matchesByte b = true := by
  induction rs generalizing bytes with
  | nil => simp [rulesMatch]
  | cons r rs ih =>
    cases bytes with
    | nil =>
      simp only [rulesMatch, Bool.false_eq_true, false_iff, not_forall]
      exact ⟨0, r, rfl, by simp⟩
    | cons b bs =>
      rw [rulesMatch, Bool.and_eq_true, ih]
      constructor
      · rintro ⟨hb, hbs⟩ (_ | k) q hq
        · exact ⟨b, rfl, Option.some.inj hq ▸ hb⟩
        · exact hbs k q hq
      · intro h
        obtain ⟨_, hb, hm⟩ := h 0 r rfl
        exact ⟨Option.some.inj hb ▸ hm, fun k q hq => h (k + 1) q hq⟩

theorem selectDescriptor_eq_find? (cat : Catalog α) (bytes : List Byte) :
    selectDescriptor cat bytes = cat.find? fun d => d.matches bytes := by
  induction cat with
  | nil => rfl
  | cons d ds ih =>
    rw [selectDescriptor, List.find?_cons, ih]
    cases d.matches bytes <;> rfl

theorem Descriptor.cycles_eq (d : Descriptor α) (alt : Bool) :
    d.cycles alt = if alt then (d.costAlt.getD d.cost).sum else d.cost.sum := by
  cases h : d.costAlt <;> cases alt <;> simp [cycles, h]

namespace Machine

/-- The byte a descriptor of the catalog tests with its k-th rule. -/
theorem getElem?_window {cat : Catalog α} {d : Descriptor α} (hd : d ∈ cat) {k : Nat} (hk : k < d.rules.length)
    (s : State) : (s.window cat)[k]? = some (s.memRead8 (s.pc + BitVec.ofNat 16 k)) :=
  getElem?_bytesFrom s.pc s (hk.trans_le (length_le_maxLength hd))

/-- A descriptor matches at PC when each of its rules matches its byte in memory (R80). -/
theorem matches_window_iff {cat : Catalog α} {d : Descriptor α} (hd : d ∈ cat) (s : State) :
    d.matches (s.window cat) = true ↔ ∀ (k : Nat) (r : ByteRule), d.rules[k]? = some r →
      r.matchesByte (s.memRead8 (s.pc + BitVec.ofNat 16 k)) = true := by
  rw [Descriptor.matches, rulesMatch_iff_getElem?]
  refine forall_congr' fun k => forall_congr' fun r => imp_congr_right fun hr => ?_
  obtain ⟨hk, -⟩ := List.getElem?_eq_some_iff.mp hr
  rw [getElem?_window hd hk]
  simp

/-- The extracted list at PC is the one whose entries are the variable bits of the bytes in memory (R73). -/
theorem extractAll_window {cat : Catalog α} {d : Descriptor α} (hd : d ∈ cat) (s : State) {x : List Byte}
    (hlen : x.length = d.rules.length)
    (hx : ∀ (k : Nat) (r : ByteRule), d.rules[k]? = some r →
      x[k]? = some (s.memRead8 (s.pc + BitVec.ofNat 16 k) &&& r.varmask)) :
    extractAll d.rules (s.window cat) = x := by
  refine List.ext_getElem? fun k => ?_
  rw [getElem?_extractAll]
  cases hr : d.rules[k]? with
  | none =>
    rw [Option.bind_none, eq_comm, List.getElem?_eq_none_iff, hlen]
    exact List.getElem?_eq_none_iff.mp hr
  | some r =>
    obtain ⟨hk, -⟩ := List.getElem?_eq_some_iff.mp hr
    rw [hx k r hr, getElem?_window hd hk]
    rfl

/-- Settles O7: the match at PC, the first match in order, and the run of the selected descriptor's routine. -/
theorem firstMatchInOrderIsSelected : Obligations.FirstMatchInOrderIsSelected := by
  refine fun cat s => ⟨fun d hd => matches_window_iff hd s, fun d => ?_, fun d x f t alt hs hlen hx hf ht => ?_⟩
  · rw [selectDescriptor_eq_find?, List.find?_eq_some_iff_append]
    constructor
    · rintro ⟨hm, before, after, hcat, hbefore⟩
      exact ⟨before, after, hcat, hm, fun e he => by simpa using hbefore e he⟩
    · rintro ⟨before, after, hcat, hm, hbefore⟩
      exact ⟨hm, before, after, hcat, fun e he => by simpa using hbefore e he⟩
  · have hext := extractAll_window (selectDescriptor_some hs).1 s hlen hx
    refine ⟨fetchCount cat (s.window cat), length_le_fetchCount hs, ?_⟩
    rw [dispatchWith, dispatchOn_some hs (hext ▸ hf) ht, Descriptor.cycles_eq]

end Machine

/-! ## The bytes fetched when nothing matches (R81) -/

/-- A descriptor that does not match is tested up to and including the first rule that fails. -/
theorem Descriptor.bytesTested_of_not_matches {d : Descriptor α} {bytes : List Byte} (h : d.matches bytes = false) :
    d.bytesTested bytes = leadingMatches d.rules bytes + 1 ∧ leadingMatches d.rules bytes + 1 ≤ d.length := by
  have hne : leadingMatches d.rules bytes ≠ d.rules.length := fun heq => by
    rw [Descriptor.matches, rulesMatch_iff_leadingMatches.mpr heq] at h
    exact absurd h (by decide)
  have := leadingMatches_le d.rules bytes
  rw [bytesTested, Descriptor.length]
  omega

/-- Where no descriptor matches, one that gets furthest says how many bytes are fetched. -/
theorem fetchCount_of_none {cat : Catalog α} {bytes : List Byte} (hne : cat ≠ [])
    (h : ∀ d ∈ cat, d.matches bytes = false) :
    ∃ d ∈ cat, (∀ e ∈ cat, leadingMatches e.rules bytes ≤ leadingMatches d.rules bytes) ∧
      fetchCount cat bytes = leadingMatches d.rules bytes + 1 := by
  induction cat with
  | nil => exact absurd rfl hne
  | cons e es ih =>
    obtain ⟨he, hes⟩ := List.forall_mem_cons.mp h
    rw [fetchCount, he, (Descriptor.bytesTested_of_not_matches he).1, if_neg (by decide)]
    cases hcase : es with
    | nil => exact ⟨e, by simp, by simp, by simp [fetchCount]⟩
    | cons e' es' =>
      rw [← hcase]
      obtain ⟨d, hd, hmax, hcount⟩ := ih (by simp [hcase]) hes
      rcases Nat.le_total (leadingMatches e.rules bytes) (leadingMatches d.rules bytes) with hle | hle
      · exact ⟨d, List.mem_cons_of_mem _ hd, List.forall_mem_cons.mpr ⟨hle, hmax⟩, by omega⟩
      · exact ⟨e, List.mem_cons_self, List.forall_mem_cons.mpr ⟨le_rfl, fun e' he' => (hmax e' he').trans hle⟩, by omega⟩

namespace Machine

/-- Settles O9: the descriptor that gets furthest gives the count of the bytes fetched. -/
theorem illegalOpcodeCarriesFetchedBytes : Obligations.IllegalOpcodeCarriesFetchedBytes := by
  intro cat s hne _ hs
  have hnone := selectDescriptor_none.mp hs
  obtain ⟨d, hd, hmax, hcount⟩ := fetchCount_of_none hne hnone
  refine ⟨d, hd, hmax, ?_⟩
  have hle := (Descriptor.bytesTested_of_not_matches (hnone d hd)).2.trans (length_le_maxLength hd)
  rw [dispatchWith, dispatchOn_none s hs, hcount]
  congr 2
  exact take_bytesFrom s.pc s hle

end Machine

/-! ## Cost tables (R406) -/

section

variable {g : Descriptor α → Descriptor α} (hg : ∀ d, (g d).rules = d.rules)
include hg

/-- The matcher looks at the rules only. -/
theorem selectDescriptor_map_of_rules (cat : Catalog α) (bytes : List Byte) :
    selectDescriptor (cat.map g) bytes = (selectDescriptor cat bytes).map g := by
  induction cat with
  | nil => rfl
  | cons d ds ih =>
    rw [List.map_cons, selectDescriptor, selectDescriptor, ih, Descriptor.matches, hg, ← Descriptor.matches]
    split <;> rfl

theorem fetchCount_map_of_rules (cat : Catalog α) (bytes : List Byte) :
    fetchCount (cat.map g) bytes = fetchCount cat bytes := by
  induction cat with
  | nil => rfl
  | cons d ds ih =>
    have htested : (g d).bytesTested bytes = d.bytesTested bytes := by
      simp only [Descriptor.bytesTested, Descriptor.length, hg]
    have hm : (g d).matches bytes = d.matches bytes := by simp only [Descriptor.matches, hg]
    rw [List.map_cons, fetchCount, fetchCount, htested, hm, ih]

theorem maxLength_map_of_rules (cat : Catalog α) : Catalog.maxLength (cat.map g) = cat.maxLength := by
  induction cat with
  | nil => rfl
  | cons d ds ih => simp only [List.map_cons, Catalog.maxLength, Descriptor.length, hg, ih]

end

/-- The descriptor with other cost tables. -/
def Descriptor.withCosts (cost : Descriptor α → List Nat) (alt : Descriptor α → Option (List Nat)) (d : Descriptor α) :
    Descriptor α := { d with cost := cost d, costAlt := alt d }

section

variable (cost : Descriptor α → List Nat) (alt : Descriptor α → Option (List Nat)) (d : Descriptor α)

@[simp] theorem Descriptor.withCosts_mnemonic : (d.withCosts cost alt).mnemonic = d.mnemonic := rfl
@[simp] theorem Descriptor.withCosts_rules : (d.withCosts cost alt).rules = d.rules := rfl
@[simp] theorem Descriptor.withCosts_length : (d.withCosts cost alt).length = d.length := rfl
@[simp] theorem Descriptor.withCosts_routine : (d.withCosts cost alt).routine = d.routine := rfl

end

namespace Machine

/-- Settles O15: a catalog with other cost tables selects and fetches alike, runs the same routine on the same extracted
list, and only the cycle count of the report reads the tables. -/
theorem costTablesDoNotReachState : Obligations.CostTablesDoNotReachState := by
  intro cat cost alt s
  change stateOf (dispatchWith (cat.map (Descriptor.withCosts cost alt)) s) = _
  have hg : ∀ d : Descriptor Routine, (d.withCosts cost alt).rules = d.rules :=
    Descriptor.withCosts_rules cost alt
  rw [dispatchWith, dispatchWith, State.window, State.window, maxLength_map_of_rules hg]
  simp only [dispatchOn, selectDescriptor_map_of_rules hg, fetchCount_map_of_rules hg]
  cases selectDescriptor cat _ with
  | none => rfl
  | some d =>
    simp only [Option.map_some, Descriptor.withCosts_mnemonic, Descriptor.withCosts_rules, Descriptor.withCosts_length,
      Descriptor.withCosts_routine]
    cases d.routine _ with
    | none => rfl
    | some r => cases hx : r (s.advance d.length) <;> simp only [hx, stateOf]

end Machine

end Sys2Proof
end

section
/-! Proofs about the step (spec/30_encoding.md R79 to R83, R94; spec/00_scope.md R10): it runs the instruction whose
encoding lies at PC, or faults where no baseline descriptor matches, and these are exactly the bytes of R94. -/

namespace Sys2Proof.Machine

/-! ## One run of the dispatcher with the baseline -/

theorem length_le_four {d : Descriptor Instr} (hd : d ∈ baseline) : d.length ≤ 4 :=
  maxLength_baseline ▸ length_le_maxLength hd

/-- The report of a run whose descriptor is known (R79 to R83): exactly the instruction's bytes are fetched. -/
theorem dispatchWith_of_select {s t : State} {d : Descriptor Instr} {i : Instr}
    (hs : selectDescriptor baseline (s.bytesFrom 4 s.pc) = some d)
    (hi : d.routine (extractAll d.rules (s.bytesFrom 4 s.pc)) = some i) (ht : exec i (s.advance d.length) = .next t) :
    dispatchWith baselineCatalog s =
      .next { state := t, cycles := d.cycles (alternate i (s.advance d.length)), fetched := d.length } := by
  rw [dispatchWith, window_baselineCatalog, dispatchOn_baseline_some hs hi ht, baseline_unambiguous.fetchCount_eq hs]

theorem step_of_select {s : State} {d : Descriptor Instr} {i : Instr}
    (hs : selectDescriptor baseline (s.bytesFrom 4 s.pc) = some d)
    (hi : d.routine (extractAll d.rules (s.bytesFrom 4 s.pc)) = some i) : step s = exec i (s.advance d.length) := by
  obtain ⟨t, ht⟩ := exec_next i (s.advance d.length)
  rw [step_eq_dispatchWith, dispatchWith_of_select hs hi ht, ht]
  rfl

/-- Every selected baseline descriptor names a well-formed instruction, so no run is refused (R84, R403). -/
theorem exists_routine {bytes : List Byte} {d : Descriptor Instr} (hs : selectDescriptor baseline bytes = some d) :
    ∃ i, d.routine (extractAll d.rules bytes) = some i ∧ i.wf = true := by
  obtain ⟨hd, hm⟩ := selectDescriptor_some hs
  obtain ⟨i, hi, hwf, -⟩ := baseline_faithful d hd bytes hm
  exact ⟨i, hi, hwf⟩

theorem dispatchWith_of_none {s : State} (hs : selectDescriptor baseline (s.bytesFrom 4 s.pc) = none) :
    dispatchWith baselineCatalog s =
      .fault (.illegalOpcode s.pc ((s.bytesFrom 4 s.pc).take (fetchCount baseline (s.bytesFrom 4 s.pc)))) := by
  rw [dispatchWith, window_baselineCatalog, ← fetchCount_baselineCatalog]
  exact dispatchOn_none s (by rw [selectDescriptor_baselineCatalog, hs]; rfl)

theorem step_of_none {s : State} (hs : selectDescriptor baseline (s.bytesFrom 4 s.pc) = none) :
    step s = .fault (.illegalOpcode s.pc ((s.bytesFrom 4 s.pc).take (fetchCount baseline (s.bytesFrom 4 s.pc)))) := by
  rw [step_eq_dispatchWith, dispatchWith_of_none hs]
  rfl

/-- Two states with the same bytes at the same PC take the same step: the same instruction, or the same fault. -/
theorem step_congr {s u : State} (hpc : u.pc = s.pc) (hbytes : u.bytesFrom 4 u.pc = s.bytesFrom 4 s.pc) :
    (∃ i n, step s = exec i (s.advance n) ∧ step u = exec i (u.advance n)) ∨
      ∃ f, step s = .fault f ∧ step u = .fault f := by
  cases hs : selectDescriptor baseline (s.bytesFrom 4 s.pc) with
  | none =>
    refine .inr ⟨_, step_of_none hs, ?_⟩
    rw [step_of_none (hbytes ▸ hs), hbytes, hpc]
  | some d =>
    obtain ⟨i, hi, -⟩ := exists_routine hs
    exact .inl ⟨i, d.length, step_of_select hs hi, step_of_select (hbytes ▸ hs) (hbytes ▸ hi)⟩

/-! ## The step and the decoder (R79, R82) -/

/-- A step runs the instruction the bytes at PC decode to, from PC advanced by the bytes the decoder took. -/
theorem step_of_decode {s : State} {i : Instr} {rest : List Byte} (h : decode (s.bytesFrom 4 s.pc) = .ok (i, rest)) :
    step s = exec i (s.advance (4 - rest.length)) := by
  obtain ⟨d, hd, hs, -, hi, rfl⟩ := select_of_decodeWith h
  have := length_le_four hd
  rw [step_of_select hs hi, List.length_drop, length_bytesFrom, Nat.sub_sub_self this]

/-- Settles O11: what decodes is well formed, and the step runs it. -/
theorem stepRunsDecodedInstruction : Obligations.StepRunsDecodedInstruction :=
  fun _ i rest h => ⟨(encodeOfDecode i _ rest h).1, step_of_decode h⟩

/-- The encoding lies at PC, so the bytes a step reads start with it. -/
theorem bytesFrom_eq_encode_append {s : State} {i : Instr} (hwf : i.wf = true)
    (h : ∀ (k : Nat) (b : Byte), (encode i)[k]? = some b → s.memRead8 (s.pc + BitVec.ofNat 16 k) = b) :
    ∃ rest, s.bytesFrom 4 s.pc = encode i ++ rest := by
  have hle : (encode i).length ≤ 4 := by
    obtain ⟨d, hd, -, -, hlen⟩ := select_encode hwf []
    exact hlen ▸ length_le_four (List.mem_of_getElem? hd)
  have henc : s.bytesFrom (encode i).length s.pc = encode i := by
    refine List.ext_getElem? fun k => ?_
    rcases Nat.lt_or_ge k (encode i).length with hk | hk
    · have hb := List.getElem?_eq_getElem hk
      rw [getElem?_bytesFrom s.pc s hk, hb, h k _ hb]
    · rw [List.getElem?_eq_none hk, List.getElem?_eq_none (by rwa [length_bytesFrom])]
  refine ⟨(s.bytesFrom 4 s.pc).drop (encode i).length, ?_⟩
  conv_lhs => rw [← List.take_append_drop (encode i).length (s.bytesFrom 4 s.pc), take_bytesFrom s.pc s hle, henc]

/-- The run of an instruction whose encoding lies at PC, by its own row of the table. -/
theorem dispatchWith_of_encode {s : State} {i : Instr} (hwf : i.wf = true)
    (h : ∀ (k : Nat) (b : Byte), (encode i)[k]? = some b → s.memRead8 (s.pc + BitVec.ofNat 16 k) = b) :
    ∃ d t, baseline[i.ctorIdx]? = some d ∧ exec i (s.advance (encode i).length) = .next t ∧
      dispatchWith baselineCatalog s =
        .next ⟨t, d.cycles (alternate i (s.advance (encode i).length)), (encode i).length⟩ := by
  obtain ⟨rest, hbytes⟩ := bytesFrom_eq_encode_append hwf h
  obtain ⟨d, hd, hs, hi, hlen⟩ := select_encode hwf rest
  obtain ⟨t, ht⟩ := exec_next i (s.advance (encode i).length)
  refine ⟨d, t, hd, ht, ?_⟩
  rw [← hlen] at ht ⊢
  exact dispatchWith_of_select (hbytes ▸ hs) (hbytes ▸ hi) ht

/-- Settles O12: the run of the encoding's own row, and the step is that run without its report. -/
theorem stepRunsInstructionInMemory : Obligations.StepRunsInstructionInMemory := by
  intro s i hwf h
  obtain ⟨d, t, -, ht, hrun⟩ := dispatchWith_of_encode hwf h
  refine ⟨t, _, ht, hrun, ?_⟩
  rw [step_eq_dispatchWith, hrun]
  rfl

/-! ## The two outcomes of a step (R10) -/

/-- Every cycle count of a well-formed descriptor is at least 1 (R77, R83). -/
theorem one_le_cycles {d : Descriptor Instr} (hwf : d.wf = true) (alt : Bool) : 1 ≤ d.cycles alt := by
  obtain ⟨-, -, -, hcost, halt⟩ := (Descriptor.wf_iff d).mp hwf
  rw [Descriptor.cycles_eq]
  cases alt with
  | false => exact hcost
  | true =>
    cases h : d.costAlt with
    | none => exact hcost
    | some t => exact (halt t h).2

/-- Settles O13: a selected descriptor's routine completes, and where none matches one to four bytes are fetched. -/
theorem stepHasTwoOutcomes : Obligations.StepHasTwoOutcomes := by
  intro s
  cases hs : selectDescriptor baseline (s.bytesFrom 4 s.pc) with
  | some d =>
    left
    obtain ⟨i, hi, -⟩ := exists_routine hs
    obtain ⟨t, ht⟩ := exec_next i (s.advance d.length)
    have hd := (selectDescriptor_some hs).1
    refine ⟨_, dispatchWith_of_select hs hi ht, (step_of_select hs hi).trans ht, one_le_cycles (baseline_wf d hd) _, ?_,
      length_le_four hd⟩
    exact List.length_pos_iff.mpr ((Descriptor.wf_iff d).mp (baseline_wf d hd)).1
  | none =>
    right
    have hnone := selectDescriptor_none.mp hs
    obtain ⟨d, hd, -, hcount⟩ := fetchCount_of_none (by decide) hnone
    have hle := (Descriptor.bytesTested_of_not_matches (hnone d hd)).2.trans (length_le_four hd)
    refine ⟨_, dispatchWith_of_none hs, step_of_none hs, ?_, ?_⟩ <;>
      rw [List.length_take, length_bytesFrom, hcount] <;> omega

/-! ## Cycle counts of the conditional transfers (R352, decision D22) -/

/-- The condition a routine acts on is read in the state with PC advanced, whose flags are those before the step. -/
theorem cond_advance (s : State) (n : Nat) (cc : Cond) : (s.advance n).cond cc = condHolds cc s.flags :=
  State.cond_eq (s.advance n) cc

theorem sub_one_bne_zero (b : Byte) : (b - 1 != 0) = !decide (b = 1) := by
  rw [bne, Bool.not_inj_iff, Bool.eq_iff_iff, beq_iff_eq, decide_eq_true_iff, sub_eq_zero]

/-- Settles O14: the run is that of the instruction's row, whose tables are read off the table, and the routine's
signal is the condition it acts on. -/
theorem conditionalCycleCounts : Obligations.ConditionalCycleCounts := by
  intro s i hwf h
  obtain ⟨d, t, hd, -, hrun⟩ := dispatchWith_of_encode hwf h
  refine ⟨_, hrun, ?_, ?_, ?_, ?_, ?_⟩
  · rintro cc nn rfl
    obtain rfl := Option.some.inj hd
    exact ite_self _
  · rintro cc e rfl
    obtain rfl := Option.some.inj hd
    simp only [alternate, cond_advance]
    rfl
  · rintro cc nn rfl
    obtain rfl := Option.some.inj hd
    simp only [alternate, cond_advance]
    rfl
  · rintro cc rfl
    obtain rfl := Option.some.inj hd
    simp only [alternate, cond_advance]
    rfl
  · rintro e rfl
    obtain rfl := Option.some.inj hd
    have hb : alternate (.djnz e) (s.advance (encode (.djnz e)).length) = !decide (s.b = 1) := sub_one_bne_zero s.b
    rw [hb]
    by_cases h1 : s.b = 1
    · rw [if_pos h1, decide_eq_true h1]
      rfl
    · rw [if_neg h1, decide_eq_false h1]
      rfl

end Sys2Proof.Machine

namespace Sys2Proof

/-! ## The illegal space (R94) -/

/-- The rules left of each row that the first byte does not rule out. -/
def residual (b : Byte) (rows : List (List ByteRule)) : List (List ByteRule) :=
  rows.filterMap fun
    | [] => some []
    | r :: rs => if r.matchesByte b then some rs else none

theorem any_rulesMatch_cons (b : Byte) (bytes : List Byte) (rows : List (List ByteRule)) :
    rows.any (rulesMatch · (b :: bytes)) = (residual b rows).any (rulesMatch · bytes) := by
  induction rows with
  | nil => rfl
  | cons rs rows ih =>
    rw [List.any_cons, ih, residual, residual, List.filterMap_cons]
    cases rs with
    | nil => simp [rulesMatch]
    | cons r rs => cases hr : r.matchesByte b <;> simp [rulesMatch, hr]

theorem isSome_select_eq_any (cat : Catalog α) (bytes : List Byte) :
    (selectDescriptor cat bytes).isSome = (cat.map Descriptor.rules).any (rulesMatch · bytes) := by
  induction cat with
  | nil => rfl
  | cons d ds ih =>
    rw [selectDescriptor, List.map_cons, List.any_cons, ← ih, Descriptor.matches]
    cases rulesMatch d.rules bytes <;> simp

/-- Whether rows match every string of `n` bytes or none, when what is left of them asks for nothing but bytes of any
value. -/
def decided (n : Nat) (rows : List (List ByteRule)) : Option Bool :=
  if rows.all fun rs => decide (rs.length ≤ n) && rs.all ByteRule.matchesAll then some !rows.isEmpty else none

theorem rulesMatch_of_matchesAll {rs : List ByteRule} {bytes : List Byte} (hlen : rs.length ≤ bytes.length)
    (h : rs.all ByteRule.matchesAll = true) : rulesMatch rs bytes = true := by
  induction rs generalizing bytes with
  | nil => rfl
  | cons r rs ih =>
    cases bytes with
    | nil => simp at hlen
    | cons b bs =>
      obtain ⟨hr, hrs⟩ := (Bool.and_eq_true ..).mp h
      rw [rulesMatch, matchesByte_of_matchesAll hr, ih (Nat.le_of_succ_le_succ hlen) hrs]
      rfl

theorem any_rulesMatch_of_decided {rows : List (List ByteRule)} {bytes : List Byte} {v : Bool}
    (h : decided bytes.length rows = some v) : rows.any (rulesMatch · bytes) = v := by
  rw [decided] at h
  split at h
  · next hall =>
    rw [List.all_eq_true] at hall
    rw [← Option.some.inj h]
    cases rows with
    | nil => rfl
    | cons rs rows =>
      obtain ⟨hlen, hrs⟩ := (Bool.and_eq_true ..).mp (hall rs List.mem_cons_self)
      rw [List.any_cons, rulesMatch_of_matchesAll (of_decide_eq_true hlen) hrs]
      rfl
  · simp at h

/-- The rule lists of the table. -/
def baselineRows : List (List ByteRule) := baseline.map Descriptor.rules

/-! The rows each page byte leaves. -/

theorem residual_CB : residual 0xCB baselineRows = ([0x00, 0x08, 0x10, 0x18, 0x20, 0x28, 0x38] : List Byte).flatMap
    fun c => [[field c 0x07 (some .lo3Ne6)], [fixed (c + 6)]] := by rfl

theorem residual_ED : residual 0xED baselineRows =
    [[fixed 0x57], [fixed 0x5F], [fixed 0x47], [fixed 0x4F], [field 0x4B 0x30 none, anyByte, anyByte],
      [field 0x43 0x30 none, anyByte, anyByte], [fixed 0x44], [field 0x4A 0x30 none], [field 0x42 0x30 none],
      [fixed 0x4D], [fixed 0x45]] := by rfl

/-- The last bytes of the page DD CB, which follow the displacement. -/
abbrev indexedRotates : List Byte := [0x06, 0x0E, 0x16, 0x1E, 0x26, 0x2E, 0x3E]

theorem residual_DD : residual 0xDD baselineRows =
    [[field 0x46 0x38 (some .hi3Ne6), anyByte], [field 0x70 0x07 (some .lo3Ne6), anyByte], [fixed 0x36, anyByte, anyByte],
      [fixed 0x21, anyByte, anyByte], [fixed 0x2A, anyByte, anyByte], [fixed 0x22, anyByte, anyByte], [fixed 0xF9],
      [fixed 0xE5], [fixed 0xE1], [fixed 0xE3]] ++
    ([0x86, 0x8E, 0x96, 0x9E, 0xA6, 0xAE, 0xB6, 0xBE, 0x34, 0x35] : List Byte).map (fun c => [fixed c, anyByte]) ++
    [[field 0x09 0x30 none], [fixed 0x23], [fixed 0x2B]] ++
    indexedRotates.map (fun c => [fixed 0xCB, anyByte, fixed c]) ++ [[fixed 0xE9]] := by rfl

theorem residual_FD : residual 0xFD baselineRows = residual 0xDD baselineRows := by rfl

theorem residual_DD_CB : residual 0xCB (residual 0xDD baselineRows) = indexedRotates.map fun c => [anyByte, fixed c] := by
  rfl

/-! Which bytes each page decides (R94). -/

/-- The first bytes no descriptor takes. -/
abbrev illegalFirst : List Byte := [0x27, 0x76, 0xD3, 0xDB]

/-- The second bytes of the page ED. -/
abbrev extendedOpcodes : List Byte := [0x42, 0x43, 0x44, 0x45, 0x47, 0x4A, 0x4B, 0x4D, 0x4F, 0x52, 0x53, 0x57, 0x5A, 0x5B,
  0x5F, 0x62, 0x63, 0x6A, 0x6B, 0x72, 0x73, 0x7A, 0x7B]

/-- The second bytes of the pages DD and FD. -/
abbrev indexedOpcodes : List Byte := [0x09, 0x19, 0x21, 0x22, 0x23, 0x29, 0x2A, 0x2B, 0x34, 0x35, 0x36, 0x39, 0x46, 0x4E,
  0x56, 0x5E, 0x66, 0x6E, 0x70, 0x71, 0x72, 0x73, 0x74, 0x75, 0x77, 0x7E, 0x86, 0x8E, 0x96, 0x9E, 0xA6, 0xAE, 0xB6, 0xBE,
  0xCB, 0xE1, 0xE3, 0xE5, 0xE9, 0xF9]

theorem decided_first : ∀ b0 : Byte, b0 ∉ ([0xCB, 0xED, 0xDD, 0xFD] : List Byte) →
    decided 3 (residual b0 baselineRows) = some (decide (b0 ∉ illegalFirst)) := by decide +kernel

theorem decided_CB : ∀ b1 : Byte, decided 2 (residual b1 (residual 0xCB baselineRows)) =
    some (decide (b1.toNat ≤ 0x2F ∨ (0x38 ≤ b1.toNat ∧ b1.toNat ≤ 0x3F))) := by
  rw [residual_CB]
  decide +kernel

theorem decided_ED : ∀ b1 : Byte, decided 2 (residual b1 (residual 0xED baselineRows)) =
    some (decide (b1 ∈ extendedOpcodes)) := by
  rw [residual_ED]
  decide +kernel

theorem decided_DD : ∀ b1 : Byte, b1 ≠ 0xCB → decided 2 (residual b1 (residual 0xDD baselineRows)) =
    some (decide (b1 ∈ indexedOpcodes)) := by
  rw [residual_DD]
  decide +kernel

/-- On a page with one more opcode byte, that byte decides. -/
theorem any_rulesMatch_page {page b1 : Byte} {v : Bool}
    (h : decided 2 (residual b1 (residual page baselineRows)) = some v) (b2 b3 : Byte) :
    (residual page baselineRows).any (rulesMatch · [b1, b2, b3]) = v := by
  rw [any_rulesMatch_cons]
  exact any_rulesMatch_of_decided h

/-- After DD the next byte decides, except that after DD CB any displacement may stand and the byte after it decides. -/
theorem any_rulesMatch_DD (b1 b2 b3 : Byte) : (residual 0xDD baselineRows).any (rulesMatch · [b1, b2, b3]) =
    decide (b1 ∈ indexedOpcodes ∧ (b1 = 0xCB → b3 ∈ indexedRotates)) := by
  by_cases h : b1 = 0xCB
  · subst h
    rw [any_rulesMatch_cons, residual_DD_CB, List.any_map, Bool.eq_iff_iff, List.any_eq_true, decide_eq_true_iff]
    simp [rulesMatch, fixed_matches_iff]
  · simp only [any_rulesMatch_page (decided_DD b1 h), h, false_imp_iff, and_true]

/-- The illegal space by the four bytes at PC. -/
theorem illegal_iff (b0 b1 b2 b3 : Byte) : (residual b0 baselineRows).any (rulesMatch · [b1, b2, b3]) = false ↔
    (b0 ∈ illegalFirst ∨ (b0 = 0xCB ∧ ¬ (b1.toNat ≤ 0x2F ∨ (0x38 ≤ b1.toNat ∧ b1.toNat ≤ 0x3F))) ∨
      (b0 = 0xED ∧ b1 ∉ extendedOpcodes) ∨ ((b0 = 0xDD ∨ b0 = 0xFD) ∧ b1 ∉ indexedOpcodes) ∨
      ((b0 = 0xDD ∨ b0 = 0xFD) ∧ b1 = 0xCB ∧ b3 ∉ indexedRotates)) := by
  by_cases hCB : b0 = 0xCB
  · subst hCB
    rw [any_rulesMatch_page (decided_CB b1), decide_eq_false_iff_not]
    simp [illegalFirst, -not_or, -not_and]
  by_cases hED : b0 = 0xED
  · subst hED
    rw [any_rulesMatch_page (decided_ED b1)]
    simp [illegalFirst]
  by_cases hindex : b0 = 0xDD ∨ b0 = 0xFD
  · have hrows : residual b0 baselineRows = residual 0xDD baselineRows := by
      rcases hindex with rfl | rfl
      · rfl
      · exact residual_FD
    have hfirst : b0 ∉ illegalFirst := by rcases hindex with rfl | rfl <;> decide
    rw [hrows, any_rulesMatch_DD, decide_eq_false_iff_not, not_and_or, Classical.not_imp]
    simp only [hfirst, hCB, hED, hindex, false_and, true_and, false_or]
  · have hdecided := decided_first b0 (by simp_all)
    rw [any_rulesMatch_of_decided (bytes := [b1, b2, b3]) hdecided, decide_eq_false_iff_not, not_not]
    simp only [hCB, hED, hindex, false_and, or_false]

namespace Machine

/-- The step faults exactly when the bytes at PC select nothing. -/
theorem fault_iff_select (s : State) : (∃ bytes, step s = .fault (.illegalOpcode s.pc bytes)) ↔
    (selectDescriptor baseline (s.bytesFrom 4 s.pc)).isSome = false := by
  cases hs : selectDescriptor baseline (s.bytesFrom 4 s.pc) with
  | none => exact ⟨fun _ => rfl, fun _ => ⟨_, step_of_none hs⟩⟩
  | some d =>
    obtain ⟨i, hi, -⟩ := exists_routine hs
    obtain ⟨t, ht⟩ := exec_next i (s.advance d.length)
    rw [step_of_select hs hi, ht]
    simp

theorem select_bytesFrom (s : State) : (selectDescriptor baseline (s.bytesFrom 4 s.pc)).isSome =
    (residual (s.memRead8 s.pc) baselineRows).any
      (rulesMatch · [s.memRead8 (s.pc + 1), s.memRead8 (s.pc + 2), s.memRead8 (s.pc + 3)]) := by
  have h2 : s.pc + 1 + 1 = s.pc + 2 := by bv_omega
  have h3 : s.pc + 2 + 1 = s.pc + 3 := by bv_omega
  rw [isSome_select_eq_any, bytesFrom_four, any_rulesMatch_cons, h2, h3]
  rfl

/-- Settles O10: outside the four pages the first byte decides, on a page the second, and on DD CB and FD CB the
fourth. -/
theorem illegalSpaceIsComplete : Obligations.IllegalSpaceIsComplete := by
  intro s b0 b1 b3
  rw [fault_iff_select, select_bytesFrom]
  exact illegal_iff b0 b1 _ b3

end Machine

end Sys2Proof
end


section
/-! Proofs about every step, from what every instruction does: the footprint of `exec_kept` (O18, O56, O58), and that a
routine neither reads IFF1 (R385) nor more of memory than how it reads (R36, R59, R402). -/

namespace Sys2Proof

open Machine (Cell)

/-- Which instructions write I, R, IFF1 and IFF2: no register selector names one of them. -/
theorem writes_system (i : Instr) : (Cell.i ∈ i.writes → i = .ldIA) ∧ (Cell.r ∈ i.writes → i = .ldRA) ∧
    (Cell.iff1 ∈ i.writes → i = .di ∨ i = .ei ∨ i = .retn) ∧ (Cell.iff2 ∈ i.writes → i = .di ∨ i = .ei) := by
  cases i with
  | ldRR r | ldRN r | ldRHl r | ldRIx r | ldRIy r | incR r | decR r | rlcR r | rrcR r | rlR r | rrR r | slaR r | sraR r
  | srlR r => cases r <;> simp [Instr.writes, R8.cell]
  | ldDdNn p | ldDdMem p | incSs p | decSs p => cases p <;> simp [Instr.writes, Rp.cells]
  | popQq p => cases p <;> simp [Instr.writes, Rp2.cells]
  | _ => simp [Instr.writes]

namespace Machine

/-! ## What the footprint gives -/

/-- Settles O18: the routine of a step starts with the memory of the step, and every routine keeps the invariant. -/
theorem stepKeepsMemoryCanonical : Obligations.StepKeepsMemoryCanonical := by
  intro s t hs h
  obtain ⟨d, i, -, -, hexec⟩ := step_next h
  exact (exec_kept i _ t hexec).inv hs

/-- Settles O56: the footprint of an instruction that does not replace F as a whole keeps the spare bits. -/
theorem spareFlagBitsChangeOnlyByTransfer : Obligations.SpareFlagBitsChangeOnlyByTransfer := by
  intro i s t h hpop hex
  refine (exec_kept i s t h).spare ?_
  cases i with
  | popQq qq =>
    refine beq_false_of_ne fun hqq => hpop ?_
    rw [hqq]
  | exAfAf => exact absurd rfl hex
  | _ => rfl

/-- A cell changes over an instruction only when the instruction writes it. -/
theorem cell_eq_or_mem_writes {i : Instr} {s t : State} (h : exec i s = .next t) (x : Cell) :
    t.cell x = s.cell x ∨ x ∈ i.writes := by
  by_cases hx : x ∈ i.writes
  · exact .inr hx
  · exact .inl ((exec_kept i s t h).cells x hx)

theorem bool_eq_of_toNat_eq {a b : Bool} (h : a.toNat = b.toNat) : a = b := by
  cases a <;> cases b <;> simp_all

/-- Settles O58: the step is the decoded instruction, and each of the four cells keeps its number unless the
instruction is one that writes it. -/
theorem stepWritersOfSystemCells : Obligations.StepWritersOfSystemCells := by
  intro s t i rest hdec hstep
  obtain ⟨hi, hr, h1, h2⟩ := writes_system i
  have hcell := cell_eq_or_mem_writes ((step_of_decode hdec).symm.trans hstep)
  exact ⟨(hcell .i).imp BitVec.eq_of_toNat_eq hi, (hcell .r).imp BitVec.eq_of_toNat_eq hr,
    (hcell .iff1).imp bool_eq_of_toNat_eq h1, (hcell .iff2).imp bool_eq_of_toNat_eq h2⟩

/-! ## IFF1 decides nothing (R385) -/

/-- The state with IFF1 replaced. -/
def State.withIff1 (b : Bool) (s : State) : State := { s with iff1 := b }

/-- An instruction's routine does the same whatever IFF1 holds. DI, EI and RETN replace it by a value that does not
depend on it; every other meaning is a record update that does not name it, in each branch of a conditional one. -/
theorem exec_withIff1 (i : Instr) (s : State) (b : Bool) :
    ∃ t c, exec i s = .next t ∧ exec i (s.withIff1 b) = .next (t.withIff1 c) := by
  cases i with
  | di => exact ⟨_, false, rfl, rfl⟩
  | ei => exact ⟨_, true, rfl, rfl⟩
  | retn => exact ⟨_, s.iff2, rfl, rfl⟩
  | ldRR dst src => cases dst <;> cases src <;> exact ⟨_, b, rfl, rfl⟩
  | ldRN r | ldRHl r | ldRIx r | ldRIy r | ldHlR r | ldIxR _ r | ldIyR _ r
  | addAR r | adcAR r | subR r | sbcAR r | andR r | xorR r | orR r | cpR r
  | incR r | decR r | rlcR r | rrcR r | rlR r | rrR r | slaR r | sraR r | srlR r =>
    cases r <;> exact ⟨_, b, rfl, rfl⟩
  | ldDdNn p | ldDdMem p | incSs p | decSs p | popQq p => cases p <;> exact ⟨_, b, rfl, rfl⟩
  | jpCc | jrCc | callCc | retCc | djnz =>
    refine ⟨_, b, rfl, ?_⟩
    rw [State.withIff1, apply_ite (State.withIff1 b)]
    rfl
  | _ => exact ⟨_, b, rfl, rfl⟩

/-- Settles O59: the bytes at PC do not depend on IFF1, so both steps run the same instruction or both fault. -/
theorem stepIgnoresInterruptEnable : Obligations.StepIgnoresInterruptEnable := by
  intro s b
  rcases step_congr (s := s) (u := s.withIff1 b) rfl rfl with ⟨i, n, hs, hu⟩ | hfault
  · obtain ⟨t, c, ht, hc⟩ := exec_withIff1 i (s.advance n) b
    exact .inl ⟨t, c, hs.trans ht, hu.trans hc⟩
  · exact .inr hfault

/-! ## A step sees of memory only how it reads (R36, R59, R402) -/

/-- The state with another memory. -/
def State.withMem (m : Memory) (s : State) : State := { s with mem := m }

/-- Both outcomes are next states, and the second is the first with a memory that reads alike. -/
def AlikeResults (r r' : Result) : Prop :=
  ∃ t m, r = .next t ∧ r' = .next (t.withMem m) ∧ ∀ x, m.get x = t.mem.get x

section

variable {s : State} {m : Memory} (h : ∀ x, m.get x = s.mem.get x)

include h

/-! Reads. -/

theorem load_withMem (op : MemOp) : (s.withMem m).load op = s.load op := h _

theorem memRead16_withMem (x : Word) : (s.withMem m).memRead16 x = s.memRead16 x :=
  congrArg₂ wordOf (h _) (h _)

theorem bytesFrom_withMem (x : Word) : (s.withMem m).bytesFrom 4 x = s.bytesFrom 4 x := by
  rw [bytesFrom_four, bytesFrom_four]
  exact congrArg₂ List.cons (h _) (congrArg₂ List.cons (h _) (congrArg₂ List.cons (h _) (congrArg₂ List.cons (h _) rfl)))

/-- An update of registers leaves the memories as they are. -/
theorem alike_registers {t : State} (hmem : t.mem = s.mem) : AlikeResults (.next t) (.next (t.withMem m)) :=
  ⟨t, m, rfl, rfl, hmem ▸ h⟩

theorem alike_writeR8 (r : R8) (op : MemOp) :
    AlikeResults (.next (s.writeR8 r (s.load op))) (.next ((s.withMem m).writeR8 r ((s.withMem m).load op))) := by
  rw [load_withMem h]
  cases r <;> exact alike_registers h rfl

theorem alike_writeRp (p : Rp) (x : Word) :
    AlikeResults (.next (s.writeRp p (s.memRead16 x))) (.next ((s.withMem m).writeRp p ((s.withMem m).memRead16 x))) := by
  rw [memRead16_withMem h]
  cases p <;> exact alike_registers h rfl

theorem alike_writeRp2 (p : Rp2) : AlikeResults (.next (s.pop.2.writeRp2 p s.pop.1))
    (.next ((s.withMem m).pop.2.writeRp2 p (s.withMem m).pop.1)) := by
  have hw : (s.withMem m).pop.1 = s.pop.1 := memRead16_withMem h s.sp
  rw [hw]
  cases p <;> exact alike_registers h rfl

/-- What a read of a word gives goes into a register: `f` says which, and leaves the memory alone. -/
theorem alike_word (f : Word → State) (x : Word) (hf : ∀ w, (f w).mem = s.mem) :
    AlikeResults (.next (f (s.memRead16 x))) (.next ((f ((s.withMem m).memRead16 x)).withMem m)) := by
  rw [memRead16_withMem h]
  exact alike_registers h (hf _)

theorem alike_popPc : AlikeResults (.next s.popPc) (.next (s.withMem m).popPc) :=
  alike_word h (fun w => { s.popPc with pc := w }) s.sp fun _ => rfl

theorem alike_aluToA (f : Byte → Alu 8) (op : MemOp) :
    AlikeResults (.next (s.aluToA (f (s.load op)))) (.next ((s.withMem m).aluToA (f ((s.withMem m).load op)))) := by
  rw [load_withMem h]
  exact alike_registers h rfl

theorem alike_flag (f : Byte → Directives) (op : MemOp) :
    AlikeResults (.next (s.flag (f (s.load op)))) (.next ((s.withMem m).flag (f ((s.withMem m).load op)))) := by
  rw [load_withMem h]
  exact alike_registers h rfl

/-! Writes. -/

/-- Memories that read alike still do after the same write. -/
theorem get_set_alike (x y : Word) (v : Byte) : (m.set x v).get y = (s.mem.set x v).get y := by
  rw [Memory.get_set, Memory.get_set, h]

theorem alike_memWrite8 (x : Word) (v : Byte) :
    AlikeResults (.next (s.memWrite8 x v)) (.next ((s.withMem m).memWrite8 x v)) :=
  ⟨_, m.set x v, rfl, rfl, fun y => get_set_alike h x y v⟩

theorem alike_aluToMem (f : Byte → Alu 8) (op : MemOp) : AlikeResults (.next (s.aluToMem op (f (s.load op))))
    (.next ((s.withMem m).aluToMem op (f ((s.withMem m).load op)))) := by
  rw [load_withMem h]
  exact ⟨_, m.set (op.ea s) (f (s.load op)).value, rfl, by cases op <;> rfl, fun y => get_set_alike h _ y _⟩

/-- Two writes, and an update of registers that leaves the memory they give alone. -/
theorem alike_set_set {t : State} {x y : Word} {v w : Byte} (hmem : t.mem = (s.mem.set x v).set y w) :
    AlikeResults (.next t) (.next (t.withMem ((m.set x v).set y w))) := by
  refine ⟨t, _, rfl, rfl, fun z => ?_⟩
  simp only [hmem, Memory.get_set, h]

/-- The word on top of the stack goes into a register (`f` says which), and another word takes its place. -/
theorem alike_exchange (f : Word → State) (v w : Byte)
    (hf : ∀ word, (f word).mem = (s.mem.set s.sp v).set (s.sp + 1) w) :
    AlikeResults (.next (f (s.memRead16 s.sp)))
      (.next ((f ((s.withMem m).memRead16 s.sp)).withMem ((m.set s.sp v).set (s.sp + 1) w))) := by
  rw [memRead16_withMem h]
  exact alike_set_set h (hf _)

end

theorem alike_ite (p : Prop) [Decidable p] {t u t' u' : State} (ht : AlikeResults (.next t) (.next t'))
    (hu : AlikeResults (.next u) (.next u')) :
    AlikeResults (.next (if p then t else u)) (.next (if p then t' else u')) := by
  split
  · exact ht
  · exact hu

/-- An instruction's routine does the same on memories that read alike. -/
theorem exec_withMem (i : Instr) {s : State} {m : Memory} (h : ∀ x, m.get x = s.mem.get x) :
    AlikeResults (exec i s) (exec i (s.withMem m)) := by
  cases i with
  | ldRHl r | ldRIx r | ldRIy r => exact alike_writeR8 h r _
  | ldABc | ldADe | ldANn => exact alike_writeR8 h .a _
  | ldHlR r | ldIxR _ r | ldIyR _ r => cases r <;> exact alike_memWrite8 h _ _
  | ldHlN | ldIxN | ldIyN | ldBcA | ldDeA | ldNnA => exact alike_memWrite8 h _ _
  | ldHlMem nn => exact alike_word h (fun w => { s with hl := w }) nn fun _ => rfl
  | ldIxMem nn => exact alike_word h (fun w => { s with ix := w }) nn fun _ => rfl
  | ldIyMem nn => exact alike_word h (fun w => { s with iy := w }) nn fun _ => rfl
  | ldDdMem p nn => exact alike_writeRp h p nn
  | ldMemHl | ldMemIx | ldMemIy | pushIx | pushIy | callNn | rst => exact alike_set_set h rfl
  | ldMemDd _ p => cases p <;> exact alike_set_set h rfl
  | pushQq p => cases p <;> exact alike_set_set h rfl
  | popQq p => exact alike_writeRp2 h p
  | popIx => exact alike_word h (fun w => { s.pop.2 with ix := w }) s.sp fun _ => rfl
  | popIy => exact alike_word h (fun w => { s.pop.2 with iy := w }) s.sp fun _ => rfl
  | exSpHl => exact alike_exchange h (fun w => { s.memWrite16 s.sp s.hl with hl := w }) _ _ fun _ => rfl
  | exSpIx => exact alike_exchange h (fun w => { s.memWrite16 s.sp s.ix with ix := w }) _ _ fun _ => rfl
  | exSpIy => exact alike_exchange h (fun w => { s.memWrite16 s.sp s.iy with iy := w }) _ _ fun _ => rfl
  | addAHl | addAIx | addAIy => exact alike_aluToA h (add8 s.a) _
  | adcAHl | adcAIx | adcAIy => exact alike_aluToA h (adc8 s.a · s.carry) _
  | subHl | subIx | subIy => exact alike_aluToA h (sub8 s.a) _
  | sbcAHl | sbcAIx | sbcAIy => exact alike_aluToA h (sbc8 s.a · s.carry) _
  | andHl | andIx | andIy => exact alike_aluToA h (and8 s.a) _
  | xorHl | xorIx | xorIy => exact alike_aluToA h (xor8 s.a) _
  | orHl | orIx | orIy => exact alike_aluToA h (or8 s.a) _
  | cpHl | cpIx | cpIy => exact alike_flag h (fun v => (sub8 s.a v).dir) _
  | incMemHl | incMemIx | incMemIy => exact alike_aluToMem h inc8 _
  | decMemHl | decMemIx | decMemIy => exact alike_aluToMem h dec8 _
  | rlcHl | rlcIx | rlcIy => exact alike_aluToMem h rlc8 _
  | rrcHl | rrcIx | rrcIy => exact alike_aluToMem h rrc8 _
  | rlHl | rlIx | rlIy => exact alike_aluToMem h (rl8 · s.carry) _
  | rrHl | rrIx | rrIy => exact alike_aluToMem h (rr8 · s.carry) _
  | slaHl | slaIx | slaIy => exact alike_aluToMem h sla8 _
  | sraHl | sraIx | sraIy => exact alike_aluToMem h sra8 _
  | srlHl | srlIx | srlIy => exact alike_aluToMem h srl8 _
  | ret | reti => exact alike_popPc h
  | retn => exact alike_word h (fun w => { s.popPc with pc := w, iff1 := s.iff2 }) s.sp fun _ => rfl
  | retCc => exact alike_ite _ (alike_popPc h) (alike_registers h rfl)
  | callCc => exact alike_ite _ (alike_set_set h rfl) (alike_registers h rfl)
  | jpCc | jrCc | djnz => exact alike_ite _ (alike_registers h rfl) (alike_registers h rfl)
  | ldRR dst src => cases dst <;> cases src <;> exact alike_registers h rfl
  | ldRN r | addAR r | adcAR r | subR r | sbcAR r | andR r | xorR r | orR r | cpR r
  | incR r | decR r | rlcR r | rrcR r | rlR r | rrR r | slaR r | sraR r | srlR r =>
    cases r <;> exact alike_registers h rfl
  | ldDdNn p | incSs p | decSs p => cases p <;> exact alike_registers h rfl
  | _ => exact alike_registers h rfl

/-- States with the same cells differ at most in their memories. -/
theorem eq_withMem_of_cells {s u : State} (h : ∀ x, u.cell x = s.cell x) : u = s.withMem u.mem := by
  have haf : u.af = s.af := word_ext (BitVec.eq_of_toNat_eq (h .a)) (BitVec.eq_of_toNat_eq (h .f))
  have hbc : u.bc = s.bc := word_ext (BitVec.eq_of_toNat_eq (h .b)) (BitVec.eq_of_toNat_eq (h .c))
  have hde : u.de = s.de := word_ext (BitVec.eq_of_toNat_eq (h .d)) (BitVec.eq_of_toNat_eq (h .e))
  have hhl : u.hl = s.hl := word_ext (BitVec.eq_of_toNat_eq (h .h)) (BitVec.eq_of_toNat_eq (h .l))
  have hir : u.ir = s.ir := word_ext (BitVec.eq_of_toNat_eq (h .i)) (BitVec.eq_of_toNat_eq (h .r))
  have haf' : u.af' = s.af' := BitVec.eq_of_toNat_eq (h .af')
  have hbc' : u.bc' = s.bc' := BitVec.eq_of_toNat_eq (h .bc')
  have hde' : u.de' = s.de' := BitVec.eq_of_toNat_eq (h .de')
  have hhl' : u.hl' = s.hl' := BitVec.eq_of_toNat_eq (h .hl')
  have hix : u.ix = s.ix := BitVec.eq_of_toNat_eq (h .ix)
  have hiy : u.iy = s.iy := BitVec.eq_of_toNat_eq (h .iy)
  have hsp : u.sp = s.sp := BitVec.eq_of_toNat_eq (h .sp)
  have hpc : u.pc = s.pc := BitVec.eq_of_toNat_eq (h .pc)
  have h1 : u.iff1 = s.iff1 := bool_eq_of_toNat_eq (h .iff1)
  have h2 : u.iff2 = s.iff2 := bool_eq_of_toNat_eq (h .iff2)
  rw [State.withMem, ← haf, ← hbc, ← hde, ← hhl, ← hir, ← haf', ← hbc', ← hde', ← hhl', ← hix, ← hiy, ← hsp, ← hpc, ← h1,
    ← h2]

/-- A cell is no part of memory. -/
theorem cell_withMem (m : Memory) (s : State) (x : Cell) : (s.withMem m).cell x = s.cell x := by cases x <;> rfl

/-- Settles O60: the second state is the first with a memory that reads alike; the bytes at PC are the same, and so is
what their instruction does. -/
theorem stepDependsOnlyOnWhatReads : Obligations.StepDependsOnlyOnWhatReads := by
  intro s u hcell hread
  obtain ⟨m, rfl⟩ : ∃ m, u = s.withMem m := ⟨_, eq_withMem_of_cells hcell⟩
  rcases step_congr (s := s) (u := s.withMem m) rfl (bytesFrom_withMem hread s.pc) with ⟨i, n, hs, hu⟩ | hfault
  · obtain ⟨t, m', ht, hv, hget⟩ := exec_withMem i (s := s.advance n) hread
    exact .inl ⟨t, _, hs.trans ht, hu.trans hv, cell_withMem m' t, hget⟩
  · exact .inr hfault

end Machine

end Sys2Proof
end


section
/-! Proofs about the state, memory, the stack and a run (spec/10_state.md, spec/20_memory.md, R181, R182, R391), and
about the flag algebra (R112, R140). -/

namespace Sys2Proof.Machine

/-! ## Launch and reset (R35, R400) -/

/-- Settles O16: a launch writes the sixteen fields as the statement lists them. -/
theorem launchGivesResetValues : Obligations.LaunchGivesResetValues :=
  ⟨fun _ _ => ⟨rfl, (by decide : hiByte 0 = 0), (by decide : loByte 0 = 0), rfl, rfl, rfl, rfl, rfl, rfl, rfl, rfl, rfl,
      rfl, rfl, rfl, rfl, rfl⟩,
    Config.initRegs, [], rfl⟩

/-- Settles O17: the memory that lists nothing is canonical. -/
theorem resetMeetsInvariant : Obligations.ResetMeetsInvariant := Memory.wf_nil

/-! ## Memory (R53, R59) -/

/-- Settles O19: a key below the size of memory is an address, so the two memories list the same at every key. -/
theorem canonicalMemoryIsDetermined : Obligations.CanonicalMemoryIsDetermined := by
  intro m m' hm hm' hread
  refine Memory.eq_of_lookup hm hm' fun n hn => ?_
  have hn' : (BitVec.ofNat 16 n).toNat = n := BitVec.toNat_ofNat n 16 ▸ Nat.mod_eq_of_lt hn
  have hget := hread (BitVec.ofNat 16 n)
  rwa [Memory.get, Memory.get, hn'] at hget

/-- Settles O20, by induction on the sequence from its end: the last write decides its own address and no other. -/
theorem readGivesLastWrite : Obligations.ReadGivesLastWrite := by
  intro writes s x
  induction writes using List.reverseRecOn with
  | nil => rfl
  | append_singleton ws w ih =>
    rw [List.foldl_append, List.foldl_cons, List.foldl_nil, State.memRead8_memWrite8, ih, List.reverse_append,
      List.reverse_singleton, List.singleton_append, List.find?_cons]
    by_cases hx : x = w.1
    · rw [if_pos hx, beq_iff_eq.mpr hx.symm]
    · rw [if_neg hx, beq_false_of_ne (Ne.symm hx)]

/-- Settles O21: the two bytes of a stored word, the word they make, and the frame of the store. -/
theorem wordByteOrder : Obligations.WordByteOrder := fun s x w =>
  ⟨memRead8_memWrite16_low x w s, memRead8_memWrite16_high x w s, wordAt_memWrite16 x w s,
    (toNat_wordOf _ _).trans (by rw [Nat.mul_comm]), unchanged_memWrite16 x w s, memory_memWrite16 x w s⟩

/-! ## The stack (R181, R182) -/

/-- A pop right after a push takes the word the push put there, and its two moves of SP cancel. -/
theorem pop_push (s : State) (w : Word) : (s.push w).pop.1 = w ∧ (s.push w).pop.2.sp = s.sp := by
  obtain ⟨hsp, hhigh, hlow, -⟩ := push_stores w s
  have h1 : s.sp - 2 + 1 = s.sp - 1 := by bv_omega
  have h2 : s.sp - 2 + 2 = s.sp := by bv_omega
  constructor
  · rw [State.pop_value, hsp, h1, hhigh, hlow, wordOf_hiByte_loByte]
  · rw [State.pop_sp, hsp, h2]

/-- Settles O22: what a push and a pop do, and the push at SP = 0, whose addresses wrap. -/
theorem stackDiscipline : Obligations.StackDiscipline := by
  intro s w
  obtain ⟨hword, hsp⟩ := pop_push s w
  refine ⟨push_stores w s, unchanged_push w s, hword, hsp, pop_word s, State.pop_sp s, unchanged_pop s, memory_pop s, ?_⟩
  intro h0
  obtain ⟨-, hhigh, hlow, -⟩ := push_stores w s
  rw [h0] at hhigh hlow
  exact ⟨hhigh, hlow⟩

/-! ## The 8-bit views (R21) -/

/-- A word is 256 times its high half plus its low half. -/
theorem toNat_eq_halves (w : Word) : w.toNat = 256 * (hiByte w).toNat + (loByte w).toNat := by
  rw [toNat_hiByte, toNat_loByte, Nat.div_add_mod]

/-- Settles O23: each pair by its halves, the two views of AF, and the laws of a write to a register. -/
theorem viewsAliasTheirPair : Obligations.ViewsAliasTheirPair := by
  intro s v
  refine ⟨toNat_eq_halves _, toNat_eq_halves _, toNat_eq_halves _, toNat_eq_halves _, toNat_eq_halves _, ?_, ?_,
    fun r => State.readR8_writeR8 s r v, fun r => unchanged_writeR8 r v s⟩
  · rw [State.setA_af, toNat_wordOf, Nat.mul_comm, State.f, toNat_loByte]
  · rw [State.setF_af, toNat_wordOf, Nat.mul_comm]

/-! ## Runs (R391) -/

/-- The host's run takes one step and goes on when that step answers a next state. -/
theorem core_run_of_step {k : Nat} {s : State} {r : Result} (h : step s = r) : core.run (k + 1) s =
    match r with
    | .next t => core.run k t
    | .fault f => .fault f
    | .refused e => .refused e := by
  have hcore : core.step s = r := h
  simp only [Host.Core.run, hcore]
  cases r <;> rfl

/-- Under the policy that does nothing, a run with the baseline is the step iterated. The reports of the steps so far
are carried along and never read. -/
theorem runWithCaller_idle (k : Nat) (reports : List Report) (s : State) :
    runWithCaller baselineCatalog .idle k reports s = core.run k s := by
  induction k generalizing reports s with
  | zero => rfl
  | succ k ih =>
    have hstep := step_eq_dispatchWith s
    cases hd : dispatchWith baselineCatalog s <;> rw [hd] at hstep <;>
      simp only [core_run_of_step hstep, runWithCaller, HostPolicy.idle, applyActions, hd, stateOf]
    case next r => exact ih _ r.state
    case fault => rfl
    case refused => rfl

/-- One step of a run acts for the caller and then steps. -/
theorem runWithCaller_one {policy : HostPolicy} {reports : List Report} {s : State} {acts : List CallerAction}
    (h : policy reports s = some acts) :
    runWithCaller baselineCatalog policy 1 reports s = step (applyActions acts s) := by
  rw [step_eq_dispatchWith]
  simp only [runWithCaller, h]
  cases dispatchWith baselineCatalog (applyActions acts s) <;> rfl

/-- A run that faults does so at one of its steps, and a step faults only by IllegalOpcode. -/
theorem fault_of_runWithCaller {cat : Catalog Routine} {policy : HostPolicy} {k : Nat} {reports : List Report} {s : State}
    {f : Fault} (h : runWithCaller cat policy k reports s = .fault f) : ∃ pc bytes, f = .illegalOpcode pc bytes := by
  induction k generalizing reports s with
  | zero => simp [runWithCaller] at h
  | succ k ih =>
    rw [runWithCaller] at h
    cases hp : policy reports s with
    | none => simp [hp] at h
    | some acts =>
      simp only [hp] at h
      cases hd : dispatchWith cat (applyActions acts s) with
      | next r => exact ih (by simpa only [hd] using h)
      | fault g =>
        simp only [hd, Host.Outcome.fault.injEq] at h
        exact ⟨_, _, h ▸ fault_of_dispatchOn hd⟩
      | refused r => simp [hd] at h

/-- Settles O25: the three facts about a run. -/
theorem idleCallerIteratesStep : Obligations.IdleCallerIteratesStep :=
  ⟨runWithCaller_idle, fun _ _ _ _ => runWithCaller_one, fun _ _ _ _ _ _ => fault_of_runWithCaller⟩

/-! ## The flag algebra (R112, R115) -/

/-- Each flag of the new F, resolved by its own directive. -/
theorem flagValues_applyFlags (F : Byte) (dir : Directives) : flagValues (applyFlags F dir) =
    { s := dir.s.resolve (flagValues F).s, z := dir.z.resolve (flagValues F).z, h := dir.h.resolve (flagValues F).h,
      pv := dir.pv.resolve (flagValues F).pv, n := dir.n.resolve (flagValues F).n,
      c := dir.c.resolve (flagValues F).c } := by
  obtain ⟨h7, h6, -, h4, -, h2, h1, h0⟩ := applyFlags_bits F dir
  simp only [flagValues, h7, h6, h4, h2, h1, h0]

/-- Settles O26: the six flags bit by bit, the two spare bits copied, and what each directive means. -/
theorem applyResolvesEachFlag : Obligations.ApplyResolvesEachFlag := by
  intro F dir
  obtain ⟨-, -, h5, -, h3, -⟩ := applyFlags_bits F dir
  exact ⟨flagValues_applyFlags F dir, spare_eq h5 h3, fun _ => ⟨rfl, rfl, rfl, fun _ => rfl⟩⟩

/-! ## The source's laws of the ALU (R140) -/

theorem inc8_dec8 (a : Byte) : (inc8 (dec8 a).value).value = a := BitVec.sub_add_cancel a 1

theorem dec8_inc8 (a : Byte) : (dec8 (inc8 a).value).value = a := BitVec.add_sub_cancel a 1

/-- RR then RL: the bit moved out comes back in, and the carry comes back out. -/
theorem rl8_rr8 (a : Byte) (c : Bool) : (rl8 (rr8 a c).value (a.getLsbD 0)).value = a ∧
    (rr8 a c).value.getLsbD 7 = c := by
  revert a
  cases c <;> decide +kernel

theorem rlc8_rrc8 (a : Byte) : (rlc8 (rrc8 a).value).value = a := by
  revert a
  decide +kernel

/-- The three logic functions write P/V as the parity of their result (R117). -/
theorem pv_logicDirectives (F v : Byte) (half : Directive) : (flagValues (applyFlags F (logicDirectives v half))).pv =
    decide (((List.range 8).filter fun k => v.getLsbD k).length % 2 = 0) := by
  rw [flagValues_applyFlags]
  exact parityCountsOnes.1 v

/-- Settles O28: each law from what the function computes and from the directive it gives the flag. -/
theorem sourceAluLaws : Obligations.SourceAluLaws := by
  refine ⟨fun a => ⟨inc8_dec8 a, dec8_inc8 a⟩, fun F a => ?_, fun F a c => ?_, rlc8_rrc8, fun F a b => ?_,
    fun F a b x hx => ?_⟩
  · rw [flagValues_applyFlags, flagValues_applyFlags]
    exact ⟨rfl, rfl⟩
  · obtain ⟨hvalue, hcarry⟩ := rl8_rr8 a c
    simp only [flagValues_applyFlags]
    exact ⟨hvalue, hcarry⟩
  · simp only [flagValues_applyFlags, (add8_eq a b).2]
    exact ⟨rfl, rfl⟩
  · simp only [List.mem_cons, List.not_mem_nil, or_false] at hx
    rcases hx with rfl | rfl | rfl
    · exact pv_logicDirectives F _ _
    · exact pv_logicDirectives F _ _
    · exact pv_logicDirectives F _ _

/-! ## Displacements (R7, R90, R91) -/

/-- The sign extension of a byte: 65280 is added to a negative one, so that it reads as the same signed number. -/
theorem toNat_sext16 (d : Byte) :
    (sext16 d).toNat = (if d.toNat < 128 then d.toNat else d.toNat + 65280) ∧ (sext16 d).toInt = d.toInt := by
  revert d
  decide +kernel

/-- Settles O29: the extension, and the three sums it enters, which wrap. -/
theorem displacementIsSigned : Obligations.DisplacementIsSigned := by
  intro s d
  obtain ⟨hk, hsigned⟩ := toNat_sext16 d
  refine ⟨hk, ?_, ?_, ?_, hsigned⟩ <;> rw [← hk] <;> exact BitVec.toNat_add _ _

end Sys2Proof.Machine
end


section
/-! Proofs about the instructions that move data (spec/41_load8.md, spec/42_load16_exchange.md) and about control
transfer (spec/46_control.md): what the new state holds is the law of the operation a meaning uses, and the frame is
`exec_kept`'s or that operation's own. -/

namespace Sys2Proof.Machine

/-! ## 8-bit loads and stores (R154 to R174) -/

/-- Settles O30: the register reads back what was written to it. -/
theorem byteLoadsComplete : Obligations.ByteLoadsComplete := fun s =>
  ⟨fun dst src => loadResult_of_exec (i := .ldRR dst src) rfl rfl (State.readR8_writeR8 ..),
    fun r n => loadResult_of_exec (i := .ldRN r n) rfl rfl (State.readR8_writeR8 ..),
    fun r => loadResult_of_exec (i := .ldRHl r) rfl rfl (State.readR8_writeR8 ..),
    fun r d => loadResult_of_exec (i := .ldRIx r d) rfl rfl (State.readR8_writeR8 ..),
    fun r d => loadResult_of_exec (i := .ldRIy r d) rfl rfl (State.readR8_writeR8 ..),
    loadResult_of_exec (i := .ldABc) rfl rfl (State.setA_a s _),
    loadResult_of_exec (i := .ldADe) rfl rfl (State.setA_a s _),
    fun nn => loadResult_of_exec (i := .ldANn nn) rfl rfl (State.setA_a s _)⟩

/-- An instruction that is one write of a byte. -/
theorem storeResult_of_exec {i : Instr} {s : State} {x : Word} {v : Byte} (h : exec i s = .next (s.memWrite8 x v)) :
    StoreResult i s x v :=
  ⟨_, h, Memory.get_set_self .., unchanged_memWrite8 x v s, memory_memWrite8 x v s⟩

/-- Settles O31: each store is one write of a byte at its effective address. -/
theorem byteStoresComplete : Obligations.ByteStoresComplete := fun _ =>
  ⟨fun _ => storeResult_of_exec rfl, fun _ => storeResult_of_exec rfl, fun _ _ => storeResult_of_exec rfl,
    fun _ _ => storeResult_of_exec rfl, fun _ _ => storeResult_of_exec rfl, fun _ _ => storeResult_of_exec rfl,
    storeResult_of_exec rfl, storeResult_of_exec rfl, fun _ => storeResult_of_exec rfl, rfl, rfl, rfl, fun _ => rfl⟩

/-- What LD A,I and LD A,R do with the value they load (R171, R172). -/
theorem accumulatorResult_of_loadSpecial {i : Instr} {s : State} {v : Byte}
    (h : exec i s = .next (s.loadSpecial v)) :
    AccumulatorResult i s v.toNat
      { s := decide (128 ≤ v.toNat), z := decide (v.toNat = 0), h := false, pv := s.iff2, n := false,
        c := s.flags.c } := by
  refine accumulatorResult_of (x := ⟨v, _⟩) h rfl ?_
  rw [State.flags_flag, getLsbD_seven, byte_eq_zero]
  rfl

/-- Settles O32: the two loads of A by their flags, the two loads of a half of IR as loads without flags. -/
theorem interruptAndRefreshLoads : Obligations.InterruptAndRefreshLoads := fun s =>
  ⟨accumulatorResult_of_loadSpecial rfl, accumulatorResult_of_loadSpecial rfl,
    loadResult_of_exec (i := .ldIA) rfl rfl (State.setI_i s _),
    loadResult_of_exec (i := .ldRA) rfl rfl (State.setR_r s _)⟩

/-! ## 16-bit loads and stores (R184 to R197) -/

/-- Settles O33: the cell holds the immediate word or the word in memory, whose halves are its two bytes. -/
theorem wordLoadsComplete : Obligations.WordLoadsComplete := fun _ nn =>
  ⟨fun dd => loadResult_of_exec (i := .ldDdNn dd nn) rfl rfl (State.readRp_writeRp ..),
    loadResult_of_exec (i := .ldIxNn nn) rfl rfl rfl,
    loadResult_of_exec (i := .ldIyNn nn) rfl rfl rfl,
    loadResult_of_exec (i := .ldHlMem nn) rfl rfl ⟨loByte_wordOf .., hiByte_wordOf ..⟩,
    fun dd => loadResult_of_exec (i := .ldDdMem dd nn) rfl rfl (State.readRp_writeRp ..),
    loadResult_of_exec (i := .ldIxMem nn) rfl rfl rfl,
    loadResult_of_exec (i := .ldIyMem nn) rfl rfl rfl,
    loadResult_of_exec (i := .ldSpHl) rfl rfl rfl,
    loadResult_of_exec (i := .ldSpIx) rfl rfl rfl,
    loadResult_of_exec (i := .ldSpIy) rfl rfl rfl⟩

/-- An instruction that is one write of a word. -/
theorem storeWordResult_of_exec {i : Instr} {s : State} {x w : Word} (h : exec i s = .next (s.memWrite16 x w)) :
    StoreWordResult i s x w :=
  ⟨_, h, memRead8_memWrite16_low x w s, memRead8_memWrite16_high x w s, unchanged_memWrite16 x w s,
    memory_memWrite16 x w s⟩

/-- Settles O34: each store is one write of a word. -/
theorem wordStoresComplete : Obligations.WordStoresComplete := fun _ _ =>
  ⟨storeWordResult_of_exec rfl, fun _ => storeWordResult_of_exec rfl, storeWordResult_of_exec rfl,
    storeWordResult_of_exec rfl⟩

/-! ## The stack and the exchanges (R198 to R209) -/

/-- Settles O35: each is one push. -/
theorem pushesComplete : Obligations.PushesComplete := fun s =>
  ⟨fun _ => ⟨_, rfl, push_stores _ s, unchanged_push _ s⟩, ⟨_, rfl, push_stores _ s, unchanged_push _ s⟩,
    ⟨_, rfl, push_stores _ s, unchanged_push _ s⟩⟩

/-- Settles O36: each is one pop whose word goes to the pair, which does not move SP again. -/
theorem popsComplete : Obligations.PopsComplete := fun s =>
  ⟨fun qq => loadResult_of_exec (i := .popQq qq) rfl rfl
      ⟨State.readRp2_writeRp2 .., (State.writeRp2_sp ..).trans (State.pop_sp s)⟩,
    loadResult_of_exec (i := .popIx) rfl rfl ⟨rfl, State.pop_sp s⟩,
    loadResult_of_exec (i := .popIy) rfl rfl ⟨rfl, State.pop_sp s⟩⟩

/-- Settles O37: an exchange of two cells undoes itself. -/
theorem registerExchangesComplete : Obligations.RegisterExchangesComplete := fun _ =>
  ⟨loadResult_of_exec (i := .exDeHl) rfl rfl ⟨rfl, rfl, rfl⟩,
    loadResult_of_exec (i := .exAfAf) rfl rfl ⟨rfl, rfl, rfl⟩,
    loadResult_of_exec (i := .exx) rfl rfl ⟨rfl, rfl, rfl, rfl, rfl, rfl, rfl⟩⟩

/-- Settles O38: the word in memory is read before the register's word is written over it. -/
theorem stackExchangesComplete : Obligations.StackExchangesComplete := by
  intro s
  refine ⟨⟨_, rfl, rfl, ?_⟩, ⟨_, rfl, rfl, ?_⟩, ⟨_, rfl, rfl, ?_⟩⟩
  · obtain ⟨hcells, hmem, -, -⟩ := kept_exchange_hl (m := false) s.sp s.hl (s.wordAt s.sp) s
    exact ⟨wordAt_memWrite16 s.sp s.hl s, hcells, hmem⟩
  · obtain ⟨hcells, hmem, -, -⟩ := kept_exchange_ix (m := false) s.sp s.ix (s.wordAt s.sp) s
    exact ⟨wordAt_memWrite16 s.sp s.ix s, hcells, hmem⟩
  · obtain ⟨hcells, hmem, -, -⟩ := kept_exchange_iy (m := false) s.sp s.iy (s.wordAt s.sp) s
    exact ⟨wordAt_memWrite16 s.sp s.iy s, hcells, hmem⟩

/-! ## Jumps (R353 to R360) -/

/-- Settles O51: the target or PC as it was, by the flags the condition reads. -/
theorem jumpsComplete : Obligations.JumpsComplete := fun s =>
  ⟨fun nn => loadResult_of_exec (i := .jpNn nn) rfl rfl rfl,
    fun cc nn => loadResult_of_exec (i := .jpCc cc nn) rfl rfl (by rw [State.cond_eq, apply_ite State.pc]; rfl),
    fun e => loadResult_of_exec (i := .jr e) rfl rfl rfl,
    fun cc e => loadResult_of_exec (i := .jrCc cc e) rfl rfl (by rw [State.cond_eq, apply_ite State.pc]; rfl),
    loadResult_of_exec (i := .jpHl) rfl rfl rfl,
    loadResult_of_exec (i := .jpIx) rfl rfl rfl,
    loadResult_of_exec (i := .jpIy) rfl rfl rfl⟩

/-- Settles O52: B minus 1 is zero exactly when B was 1, and B is written in both branches. -/
theorem djnzCompletes : Obligations.DjnzCompletes := by
  intro s e
  have hb : (s.b - 1).toNat = (s.b.toNat + 255) % 256 := (BitVec.toNat_sub s.b 1).trans (by rw [Nat.add_comm]; rfl)
  refine loadResult_of_exec (i := .djnz e) rfl rfl ?_
  by_cases h1 : s.b = 1
  · rw [if_pos (sub_eq_zero.mpr h1), if_pos h1]
    exact ⟨(congrArg BitVec.toNat (State.setB_b s _)).trans hb, rfl⟩
  · rw [if_neg (mt sub_eq_zero.mp h1), if_neg h1]
    exact ⟨(congrArg BitVec.toNat (State.setB_b s _)).trans hb, rfl⟩

/-! ## Calls and returns (R361 to R367) -/

/-- Settles O53: each is one call, or nothing when its condition is false. -/
theorem callsComplete : Obligations.CallsComplete := by
  intro s called
  have hcall (target : Word) : called (s.call target) target := ⟨rfl, call_stores target s, unchanged_call target s⟩
  refine ⟨fun nn => ⟨_, rfl, hcall nn⟩, fun cc nn => ⟨_, rfl, ?_⟩, fun p => ⟨_, rfl, hcall (zext16 p), ?_⟩⟩
  · rw [State.cond_eq]
    cases condHolds cc s.flags
    · rfl
    · exact hcall nn
  · exact BitVec.toNat_setWidth_of_le (by decide)

/-- Settles O54: each is one pop into PC, or nothing when its condition is false; RETN adds the copy of IFF2. -/
theorem returnsComplete : Obligations.ReturnsComplete := by
  intro s returned
  have hret : returned s.popPc := ⟨rfl, State.popPc_sp s⟩
  refine ⟨loadResult_of_exec (i := .ret) rfl rfl hret, loadResult_of_exec (i := .reti) rfl rfl hret,
    loadResult_of_exec (i := .retn) rfl rfl ⟨⟨rfl, State.popPc_sp s⟩, rfl⟩, fun cc => ⟨_, rfl, ?_⟩⟩
  rw [State.cond_eq]
  cases condHolds cc s.flags
  · rfl
  · exact ⟨hret, unchanged_popPc s, memory_popPc s⟩

/-- Settles O55: the two flip-flops as the meaning writes them. -/
theorem nopAndInterruptEnable : Obligations.NopAndInterruptEnable := fun _ =>
  ⟨rfl, loadResult_of_exec (i := .di) rfl rfl ⟨rfl, rfl⟩, loadResult_of_exec (i := .ei) rfl rfl ⟨rfl, rfl⟩⟩

end Sys2Proof.Machine
end


section
/-! Proofs about arithmetic, logic, rotates and shifts (spec/43_arith8.md, spec/44_arith16.md,
spec/45_rotate_shift.md): each instruction is its ALU function in its place, whose value and directives are read as
arithmetic in Laws/Alu.lean. -/

namespace Sys2Proof.Machine

/-! ## What an ALU function's reading gives for an instruction -/

/-- The six flags after a directive set. -/
def Directives.resolve (dir : Directives) (fl : FlagValues) : FlagValues :=
  { s := dir.s.resolve fl.s, z := dir.z.resolve fl.z, h := dir.h.resolve fl.h, pv := dir.pv.resolve fl.pv,
    n := dir.n.resolve fl.n, c := dir.c.resolve fl.c }

theorem flags_flag_of_dir {x : Alu w} {dir : Directives} (h : x.dir = dir) (s : State) :
    (s.flag x.dir).flags = dir.resolve s.flags := by
  rw [h]
  exact State.flags_flag s dir

/-- What holds of each of the five operand forms may be weakened in each. -/
theorem AccumulatorForms.imp {reg : R8 → Instr} {imm : Byte → Instr} {hl : Instr} {ix iy : Byte → Instr}
    {P Q : Instr → (State → Byte) → Prop} (hPQ : ∀ i y, P i y → Q i y) (h : AccumulatorForms reg imm hl ix iy P) :
    AccumulatorForms reg imm hl ix iy Q := by
  obtain ⟨hreg, himm, hmem, hix, hiy⟩ := h
  exact ⟨fun r => hPQ _ _ (hreg r), fun n => hPQ _ _ (himm n), hPQ _ _ hmem, fun d => hPQ _ _ (hix d),
    fun d => hPQ _ _ (hiy d)⟩

/-- What holds of each of the four places may be weakened in each. -/
theorem PlaceForms.imp {reg : R8 → Instr} {hl : Instr} {ix iy : Byte → Instr} {P Q : Instr → Place → Prop}
    (hPQ : ∀ i p, P i p → Q i p) (h : PlaceForms reg hl ix iy P) : PlaceForms reg hl ix iy Q := by
  obtain ⟨hreg, hmem, hix, hiy⟩ := h
  exact ⟨fun r => hPQ _ _ (hreg r), hPQ _ _ hmem, fun d => hPQ _ _ (hix d), fun d => hPQ _ _ (hiy d)⟩

/-- The instruction puts the function `f` of its operand into A. -/
def IntoA (s : State) (f : Byte → Alu 8) (i : Instr) (y : State → Byte) : Prop := exec i s = .next (s.aluToA (f (y s)))

theorem accumulatorResult_of_eq {i : Instr} {s : State} {x : Alu 8} {v : Nat} {dir : Directives}
    (h : exec i s = .next (s.aluToA x)) (hx : x.value.toNat = v ∧ x.dir = dir) :
    AccumulatorResult i s v (dir.resolve s.flags) :=
  accumulatorResult_of h hx.1 (flags_flag_of_dir hx.2 s)

theorem flagsOnlyResult_of_dir {i : Instr} {s : State} {dir dir' : Directives} (h : exec i s = .next (s.flag dir))
    (hdir : dir = dir') : FlagsOnlyResult i s (dir'.resolve s.flags) := by
  obtain ⟨hspare, hcells, hmem⟩ := flag_result dir s
  exact ⟨_, h, hdir ▸ State.flags_flag s dir, hspare, hcells, hmem⟩

/-- The result of an ALU function put in a place, and its flags. -/
def Place.write (p : Place) (x : Alu 8) (s : State) : State :=
  match p with
  | .reg r => s.aluToR8 r x
  | .mem m => s.aluToMem m x

/-- The instruction puts the function `f` of what its place holds in that place. -/
def InPlace (s : State) (f : Byte → Alu 8) (i : Instr) (p : Place) : Prop := exec i s = .next (p.write (f (p.read s)) s)

theorem placeResult_of_eq {i : Instr} {p : Place} {s : State} {x : Alu 8} {v : Nat} {dir : Directives}
    (h : exec i s = .next (p.write x s)) (hx : x.value.toNat = v ∧ x.dir = dir) :
    PlaceResult i p s v (dir.resolve s.flags) :=
  placeResult_of h hx.1 (flags_flag_of_dir hx.2 s)

/-! ## 8-bit arithmetic and logic (R224 to R275) -/

/-- Settles O39: each form is add8 or adc8 into A. -/
theorem addAndAdcResults : Obligations.AddAndAdcResults := by
  intro s
  refine ⟨.imp (P := IntoA s (add8 s.a)) (fun i y h => ?_) ⟨fun _ => rfl, fun _ => rfl, rfl, fun _ => rfl, fun _ => rfl⟩,
    .imp (P := IntoA s (adc8 s.a · s.carry)) (fun i y h => ?_)
      ⟨fun _ => rfl, fun _ => rfl, rfl, fun _ => rfl, fun _ => rfl⟩⟩
  · exact accumulatorResult_of_eq h (add8_eq s.a (y s))
  · exact accumulatorResult_of_eq h (adc8_eq s.a (y s) s.carry)

/-- Settles O40: each form is sub8 or sbc8 into A. -/
theorem subAndSbcResults : Obligations.SubAndSbcResults := by
  intro s
  refine ⟨.imp (P := IntoA s (sub8 s.a)) (fun i y h => ?_) ⟨fun _ => rfl, fun _ => rfl, rfl, fun _ => rfl, fun _ => rfl⟩,
    .imp (P := IntoA s (sbc8 s.a · s.carry)) (fun i y h => ?_)
      ⟨fun _ => rfl, fun _ => rfl, rfl, fun _ => rfl, fun _ => rfl⟩⟩
  · exact accumulatorResult_of_eq h (sub8_eq s.a (y s))
  · exact accumulatorResult_of_eq h (sbc8_eq s.a (y s) s.carry)

/-- The flags the logic functions share, on numbers (R117, R124 to R126). -/
theorem logicDirectives_eq (v : Byte) (half : Directive) : logicDirectives v half =
    { s := .cond (decide (128 ≤ v.toNat)), z := .cond (decide (v = 0)), h := half
      pv := .cond (decide (((List.range 8).filter fun k => v.getLsbD k).length % 2 = 0)), n := .reset, c := .reset } := by
  rw [logicDirectives, getLsbD_seven, parityCountsOnes.1]
  rfl

/-- Settles O41: each form is a logic function into A. -/
theorem logicResults : Obligations.LogicResults := by
  intro s flagsOf
  refine ⟨.imp (P := IntoA s (and8 s.a)) (fun i y h => ?_) ⟨fun _ => rfl, fun _ => rfl, rfl, fun _ => rfl, fun _ => rfl⟩,
    .imp (P := IntoA s (xor8 s.a)) (fun i y h => ?_) ⟨fun _ => rfl, fun _ => rfl, rfl, fun _ => rfl, fun _ => rfl⟩,
    .imp (P := IntoA s (or8 s.a)) (fun i y h => ?_) ⟨fun _ => rfl, fun _ => rfl, rfl, fun _ => rfl, fun _ => rfl⟩⟩
  · exact accumulatorResult_of_eq h ⟨rfl, logicDirectives_eq (s.a &&& y s) .set⟩
  · exact accumulatorResult_of_eq h ⟨rfl, logicDirectives_eq (s.a ^^^ y s) .reset⟩
  · exact accumulatorResult_of_eq h ⟨rfl, logicDirectives_eq (s.a ||| y s) .reset⟩

/-- Settles O42: each form applies the directives of sub8 and nothing else. -/
theorem compareResults : Obligations.CompareResults := fun s =>
  .imp (P := fun i y => exec i s = .next (s.flag (sub8 s.a (y s)).dir))
    (fun _ y h => flagsOnlyResult_of_dir h (sub8_eq s.a (y s)).2)
    ⟨fun _ => rfl, fun _ => rfl, rfl, fun _ => rfl, fun _ => rfl⟩

/-- Settles O43: each form is inc8 or dec8 in its place. -/
theorem incAndDecByteResults : Obligations.IncAndDecByteResults := by
  intro s
  refine ⟨.imp (P := InPlace s inc8) (fun i p h => ?_) ⟨fun _ => rfl, rfl, fun _ => rfl, fun _ => rfl⟩,
    .imp (P := InPlace s dec8) (fun i p h => ?_) ⟨fun _ => rfl, rfl, fun _ => rfl, fun _ => rfl⟩⟩
  · exact placeResult_of_eq h (inc8_eq (p.read s))
  · exact placeResult_of_eq h (dec8_eq (p.read s))

/-- The complement is the distance from 255. -/
theorem toNat_xor_ff (a : Byte) : (a ^^^ 0xFF).toNat = 255 - a.toNat := by
  revert a
  decide +kernel

/-- R273 as arithmetic: the negation is a subtraction from zero. -/
theorem neg_eq (a : Byte) :
    (sub8 0x00 a).value.toNat = (256 - a.toNat) % 256 ∧
    (sub8 0x00 a).dir =
      { s := .cond (decide (128 ≤ (256 - a.toNat) % 256)), z := .cond (decide (a = 0))
        h := .cond (decide (a.toNat % 16 ≠ 0)), pv := .cond (decide (a.toNat = 128)), n := .set
        c := .cond (decide (a ≠ 0)) } := by
  revert a
  decide +kernel

/-- Settles O44: CPL and NEG write A, CCF and SCF flags only. -/
theorem accumulatorAndCarryOperations : Obligations.AccumulatorAndCarryOperations := fun s =>
  ⟨accumulatorResult_of_eq (x := ⟨s.a ^^^ 0xFF, { h := .set, n := .set }⟩) rfl ⟨toNat_xor_ff s.a, rfl⟩,
    accumulatorResult_of_eq rfl (neg_eq s.a),
    flagsOnlyResult_of_dir (dir' := { h := .cond s.carry, n := .reset, c := .cond (!s.carry) }) rfl rfl,
    flagsOnlyResult_of_dir (dir' := { h := .reset, n := .reset, c := .set }) rfl rfl⟩

/-! ## 16-bit arithmetic (R291 to R295) -/

/-- Settles O45: each is add16 into its register, whose directives keep S, Z and P/V. -/
theorem wordAddResults : Obligations.WordAddResults := by
  intro s flagsOf
  refine ⟨fun ss => loadResult_of_exec (i := .addHlSs ss) rfl rfl ?_,
    fun pp => loadResult_of_exec (i := .addIxPp pp) rfl rfl ?_,
    fun rr => loadResult_of_exec (i := .addIyRr rr) rfl rfl ?_⟩
  · obtain ⟨hvalue, hdir⟩ := add16_eq s.hl (s.readRp ss)
    exact ⟨hvalue, flags_flag_of_dir hdir _, State.spareBits_flag ..⟩
  · obtain ⟨hvalue, hdir⟩ := add16_eq s.ix (s.readRpx pp)
    exact ⟨hvalue, flags_flag_of_dir hdir _, State.spareBits_flag ..⟩
  · obtain ⟨hvalue, hdir⟩ := add16_eq s.iy (s.readRpy rr)
    exact ⟨hvalue, flags_flag_of_dir hdir _, State.spareBits_flag ..⟩

/-- Settles O46: adc16 and sbc16 into HL, S and Z read off the word that HL then holds. -/
theorem wordAdcAndSbcResults : Obligations.WordAdcAndSbcResults := by
  intro s ss x y c
  refine ⟨loadResult_of_exec (i := .adcHlSs ss) rfl rfl ?_, loadResult_of_exec (i := .sbcHlSs ss) rfl rfl ?_⟩
  · obtain ⟨hvalue, hdir⟩ := adc16_eq s.hl (s.readRp ss) s.carry
    rw [← hvalue] at hdir
    exact ⟨hvalue, State.spareBits_flag .., flags_flag_of_dir hdir _⟩
  · obtain ⟨hvalue, hdir⟩ := sbc16_eq s.hl (s.readRp ss) s.carry
    rw [← hvalue] at hdir
    exact ⟨hvalue, State.spareBits_flag .., flags_flag_of_dir hdir _⟩

/-! ## Rotates and shifts (R312 to R343) -/

/-- R116 on numbers: the flags of `shiftAlu` are those of the narrowed result and the bit moved out. -/
theorem shiftAlu_eq {n v : Nat} (hv : n % 256 = v) (out : Bool) :
    (shiftAlu (BitVec.ofNat 8 n) out).value.toNat = v ∧
    (shiftAlu (BitVec.ofNat 8 n) out).dir =
      { s := .cond (decide (128 ≤ v)), z := .cond (decide (v = 0)), h := .reset
        pv := .cond (parity (BitVec.ofNat 8 v)), n := .reset, c := .cond out } := by
  have hn : (BitVec.ofNat 8 n).toNat = v := (BitVec.toNat_ofNat n 8).trans hv
  have hsame : BitVec.ofNat 8 v = BitVec.ofNat 8 n := BitVec.eq_of_toNat_eq (by rw [hn, ← hv]; simp)
  refine ⟨hn, ?_⟩
  rw [shiftAlu, getLsbD_seven, byte_eq_zero, hn, hsame]

/-- A rotate or shift in its place, by the number its function computes and the bit moved out. -/
theorem placeResult_of_shift {i : Instr} {p : Place} {s : State} {x : Alu 8} {n v : Nat} {out : Bool}
    (h : exec i s = .next (p.write x s)) (hx : x = shiftAlu (BitVec.ofNat 8 n) out) (hv : n % 256 = v) :
    PlaceResult i p s v (shiftFlags v out) :=
  placeResult_of_eq h (hx ▸ shiftAlu_eq hv out)

/-- A rotate of A keeps S, Z and P/V (R311). -/
theorem accumulatorResult_of_rotateA {i : Instr} {s : State} {x : Alu 8} {n v : Nat} {out : Bool}
    (h : exec i s = .next (s.rotateA x)) (hx : x = shiftAlu (BitVec.ofNat 8 n) out) (hv : n % 256 = v) :
    AccumulatorResult i s v { s.flags with h := false, n := false, c := out } := by
  subst hx
  exact accumulatorResult_of_eq (x := ⟨_, (shiftAlu (BitVec.ofNat 8 n) out).dir.keepSZPv⟩) h ⟨(shiftAlu_eq hv out).1, rfl⟩

/-- Half a byte with a bit put in at the top is a byte. -/
theorem half_add_top_mod {x b : Nat} (hx : x < 256) (hb : b ≤ 1) : (x / 2 + 128 * b) % 256 = x / 2 + 128 * b := by omega

/-- Settles O48: each is its rotate of A. -/
theorem accumulatorRotateResults : Obligations.AccumulatorRotateResults := fun s =>
  ⟨accumulatorResult_of_rotateA rfl (rlc8_eq s.a) rfl,
    accumulatorResult_of_rotateA rfl (rrc8_eq s.a) (half_add_top_mod s.a.isLt (by omega)),
    accumulatorResult_of_rotateA rfl (rl8_eq s.a s.carry) rfl,
    accumulatorResult_of_rotateA rfl (rr8_eq s.a s.carry) (half_add_top_mod s.a.isLt (Bool.toNat_le _))⟩

/-- Settles O49: each form is its rotate in its place. -/
theorem rotateResults : Obligations.RotateResults := by
  intro s c
  refine ⟨.imp (P := InPlace s rlc8) (fun i p h => ?_) ⟨fun _ => rfl, rfl, fun _ => rfl, fun _ => rfl⟩,
    .imp (P := InPlace s rrc8) (fun i p h => ?_) ⟨fun _ => rfl, rfl, fun _ => rfl, fun _ => rfl⟩,
    .imp (P := InPlace s (rl8 · s.carry)) (fun i p h => ?_) ⟨fun _ => rfl, rfl, fun _ => rfl, fun _ => rfl⟩,
    .imp (P := InPlace s (rr8 · s.carry)) (fun i p h => ?_) ⟨fun _ => rfl, rfl, fun _ => rfl, fun _ => rfl⟩⟩
  · exact placeResult_of_shift h (rlc8_eq _) rfl
  · exact placeResult_of_shift h (rrc8_eq _) (half_add_top_mod (p.read s).isLt (by omega))
  · exact placeResult_of_shift h (rl8_eq _ s.carry) rfl
  · exact placeResult_of_shift h (rr8_eq _ s.carry) (half_add_top_mod (p.read s).isLt (Bool.toNat_le _))

/-- Settles O50: each form is its shift in its place. -/
theorem shiftResults : Obligations.ShiftResults := by
  intro s
  refine ⟨.imp (P := InPlace s sla8) (fun i p h => ?_) ⟨fun _ => rfl, rfl, fun _ => rfl, fun _ => rfl⟩,
    .imp (P := InPlace s sra8) (fun i p h => ?_) ⟨fun _ => rfl, rfl, fun _ => rfl, fun _ => rfl⟩,
    .imp (P := InPlace s srl8) (fun i p h => ?_) ⟨fun _ => rfl, rfl, fun _ => rfl, fun _ => rfl⟩⟩
  · exact placeResult_of_shift h (sla8_eq _) rfl
  · have hx := (p.read s).isLt
    exact placeResult_of_shift h (sra8_eq _) (half_add_top_mod hx (by omega))
  · have hx := (p.read s).isLt
    exact placeResult_of_shift h (srl8_eq _) (Nat.mod_eq_of_lt (by omega))

end Sys2Proof.Machine
end
